-- ==== Sys2Proof/Word.lean ====
section
/-!
DEFINITION. The word types of the CHIP-8 core (00_scope.md R5, R7: all values are unsigned).
-/

namespace Sys2Proof

/-- A register or memory cell: 8 bits (R5, R10, R20). -/
abbrev Byte := BitVec 8

/-- I, PC, IR, a call-stack entry, an instruction word: 16 bits (R5). -/
abbrev Word := BitVec 16

/-- A register index x or y, DRW's row count n, a key code: 4 bits (R29, R61). -/
abbrev Nibble := BitVec 4

/-- An address literal nnn: 12 bits (R61). -/
abbrev Addr := BitVec 12

end Sys2Proof
end

