-- ==== Sys2Proof/Config.lean ====
section
/-!
DEFINITION. What the environment supplies and the spec leaves open: three free values, each an opaque function of a
counter that State holds, so that nothing can be proved of any one answer (10_state.md R26: these are inputs, "answered by
the environment at each step and held nowhere in the core").

The default font is in Machine/Font.lean; FONT and the program image are arguments of `launchWith` (Machine/Host.lean).
-/

namespace Sys2Proof

/-- FREE VALUE. The value `KeyIn()` returns at key read number n: none, or one of the 16 codes (R29, U8; DESIGN CHOICE, log 4). -/
opaque Config.keyIn : Nat → Option Nibble

/-- FREE VALUE. The byte `RandByte()` returns at draw number n: any of the 256 values (R30, R112, U7; DESIGN CHOICE, log 5). -/
opaque Config.rndByte : Nat → Byte

/-- The two schedulable activities of the core, each of which has a step of its own (10_state.md R27). -/
inductive Agent where
  /-- The engine: an instruction step, or a poll in WAIT_KEY (R28, R37). -/
  | engine
  /-- The timer unit: a tick (60_exceptions.md R195). -/
  | timerUnit
  deriving DecidableEq, Repr, Inhabited

/-- FREE VALUE. Which agent takes turn number n: either, in any order (R27, R196, U9; DESIGN CHOICE, log 3). -/
opaque Config.turn : Nat → Agent

end Sys2Proof
end

