-- ==== Sys2Proof/Machine/Font.lean ====
section
/-!
DEFINITION. FONT, the 80 glyph bytes at 0x000..0x04F after reset (20_memory.md R42). The spec leaves them a parameter and
gives a default, which it marks as general knowledge; `State.reset` has the default, and `launchWith` (Machine/Host.lean) takes
any other FONT (DESIGN CHOICE, log 7).
-/

namespace Sys2Proof.Machine

/-- The default FONT: glyph d at 5*d, one digit a line (R42). -/
def font : List Byte :=
  [0xF0, 0x90, 0x90, 0x90, 0xF0,
   0x20, 0x60, 0x20, 0x20, 0x70,
   0xF0, 0x10, 0xF0, 0x80, 0xF0,
   0xF0, 0x10, 0xF0, 0x10, 0xF0,
   0x90, 0x90, 0xF0, 0x10, 0x10,
   0xF0, 0x80, 0xF0, 0x10, 0xF0,
   0xF0, 0x80, 0xF0, 0x90, 0xF0,
   0xF0, 0x10, 0x20, 0x40, 0x40] ++
  [0xF0, 0x90, 0xF0, 0x90, 0xF0,
   0xF0, 0x90, 0xF0, 0x10, 0xF0,
   0xF0, 0x90, 0xF0, 0x90, 0x90,
   0xE0, 0x90, 0xE0, 0x90, 0xE0,
   0xF0, 0x80, 0x80, 0x80, 0xF0,
   0xE0, 0x90, 0x90, 0x90, 0xE0,
   0xF0, 0x80, 0xF0, 0x80, 0xF0,
   0xF0, 0x80, 0xF0, 0x80, 0x80]

end Sys2Proof.Machine
end

