-- ==== Sys2Proof/Machine/State.lean ====
section
/-!
DEFINITION. The state of the core (10_state.md R10 to R25), plain data, and its reset values (R35).
-/

namespace Sys2Proof.Machine

/-- RUN_STATE (R23). -/
inductive RunState where
  /-- Fetching and executing. -/
  | run
  /-- Waiting in LD Vx,K for a key (R37, R165). -/
  | waitKey
  /-- Stopped by a fault; only reset leaves it (R185, R210). -/
  | halt
  deriving DecidableEq, Repr

/-- The four faults of the core (60_exceptions.md R180). The spec describes their entry (R185), so each is TAKEN: the
instruction answers a next state in HALT with FAULT_CAUSE written, never `Host.Outcome.fault` (DEDUCED, log 1: safe). The type is
the type of FAULT_CAUSE's non-zero values. -/
inductive Fault where
  /-- Raised by the decode phase of any instruction step on an Unsupported word (R181). Safe: the run stops. -/
  | unsupportedOpcode
  /-- Raised by RET with SP = 0 (R182). Safe: the run stops. -/
  | stackUnderflow
  /-- Raised by CALL with SP = 16 (R183). Safe: the run stops where another stack might wrap. -/
  | stackOverflow
  /-- Raised by the fetch, DRW, LD B,Vx, LD [I],Vx and LD Vx,[I] at an address above 0xFFF (R184). Safe: the run stops
  where another machine might wrap the address. -/
  | memBounds
  deriving DecidableEq, Repr

/-- What the model gives no meaning. -/
inductive Refusal where
  /-- An instruction that has no meaning yet, by its mnemonic. Raised by no arm: every instruction is modelled. Safe. -/
  | notModelled (mnemonic : String)
  /-- Raised by `launchWith` for an image longer than the 3584 bytes of program space, with its length: the spec gives such a
  launch no meaning (20_memory.md R57). Safe: nothing runs. -/
  | imageTooLong (length : Nat)
  deriving DecidableEq, Repr

/-- Memory as (address, byte) pairs, addresses strictly rising, no pair equal to what an unlisted address reads as
(`Memory.wf`, Machine/Ops.lean). -/
abbrev Memory := List Host.Cell

/-- The framebuffer: 32 rows of 64 one-bit pixels; bit x of row y is pixel (x,y), linear index y*64+x (R19). -/
abbrev Framebuffer := Vector (BitVec 64) 32

/-- Everything the spec gives the machine, and the model's own five fields at the end. -/
structure State where
  /-- V0..VF (R10). -/
  v : Vector Byte 16
  /-- The index register I (R13). -/
  idx : Word
  /-- The program counter (R15). -/
  pc : Word
  /-- The delay timer (R17). -/
  dt : Byte
  /-- The sound timer (R17). -/
  st : Byte
  /-- The call-stack entries STK[0..15] (R18). -/
  stk : Vector Word 16
  /-- The number of stack entries in use, 0..16 (R18). -/
  sp : Fin 17
  /-- The framebuffer (R19). -/
  fb : Framebuffer
  /-- Memory (R20). -/
  mem : Memory
  /-- RUN_STATE (R23). -/
  run : RunState
  /-- The word most recently fetched (R24). -/
  ir : Word
  /-- FAULT_CAUSE, none being its value 0 (R25). -/
  cause : Option Fault
  /-- The model's own: how many bytes RND has drawn (DESIGN CHOICE, log 5). -/
  rndDraws : Nat
  /-- The model's own: how many times the key slot has been read (DESIGN CHOICE, log 4). -/
  keyReads : Nat
  /-- The model's own: the agents whose turns come next, as far as they are fixed in advance (DESIGN CHOICE, log 3). -/
  turns : List Agent
  /-- The model's own: how many turns have been taken (DESIGN CHOICE, log 3). -/
  turnsTaken : Nat
  /-- The model's own record of an output: how many fb_invalidate pulses have been raised (R31; DESIGN CHOICE, log 11). -/
  invalidates : Nat
  deriving DecidableEq, Repr

/-- The machine right after reset, with the empty image (R35, R211; the model's own fields: DESIGN CHOICE, log 3, 4, 5, 11). -/
def State.reset : State where
  v := Vector.replicate 16 0
  idx := 0
  pc := 0x0200
  dt := 0
  st := 0
  stk := Vector.replicate 16 0
  sp := 0
  fb := Vector.replicate 32 0
  mem := []
  run := .run
  ir := 0
  cause := none
  rndDraws := 0
  keyReads := 0
  turns := []
  turnsTaken := 0
  invalidates := 0

end Sys2Proof.Machine
end

