-- ==== Sys2Proof/Machine/Ops.lean ====
section
/-!
DEFINITION. The named operations over registers, memory, the call stack and the framebuffer, the entry into a fault, and
the inputs. Every meaning is written over these.
-/

namespace Sys2Proof.Machine

/-- The result of one instruction or one step. -/
abbrev Result := Host.Outcome State Fault Refusal

/-! Registers. -/

/-- `V[x]` (R8, R10). -/
def State.reg (s : State) (x : Nibble) : Byte := s.v[x.toNat]'x.isLt

/-- `V[x] <- b` (R8). -/
def State.setReg (s : State) (x : Nibble) (b : Byte) : State := { s with v := s.v.set x.toNat b x.isLt }

/-- `I <- w` (R13). -/
def State.setIdx (s : State) (w : Word) : State := { s with idx := w }

/-- `PC <- w` (R15). -/
def State.setPc (s : State) (w : Word) : State := { s with pc := w }

/-- `DT <- b` (R17). -/
def State.setDt (s : State) (b : Byte) : State := { s with dt := b }

/-- `ST <- b` (R17). -/
def State.setSt (s : State) (b : Byte) : State := { s with st := b }

/-- `IR <- w` (R24). -/
def State.setIr (s : State) (w : Word) : State := { s with ir := w }

/-- `RUN_STATE <- r` (R23). -/
def State.setRun (s : State) (r : RunState) : State := { s with run := r }

/-- `FAULT_CAUSE <- c` (R25). -/
def State.setCause (s : State) (c : Fault) : State := { s with cause := some c }

/-- The memory replaced. -/
def State.setMem (s : State) (m : Memory) : State := { s with mem := m }

/-- The framebuffer replaced (R19). -/
def State.setFb (s : State) (f : Framebuffer) : State := { s with fb := f }

/-- The pulse on fb_invalidate at the end of a CLS or DRW (R31, R147), recorded by counting it (DESIGN CHOICE, log 11). -/
def State.pulseInvalidate (s : State) : State := { s with invalidates := s.invalidates + 1 }

/-! Faults. -/

/-- `raise Fault(c)`: FAULT_CAUSE and RUN_STATE written, nothing else (R185). The entry is a next state (DEDUCED, log 1). -/
def raise (c : Fault) (s : State) : Result := .next ((s.setCause c).setRun .halt)

/-! Memory. -/

/-- What a cell nothing is listed at holds: the reset contents with no image, the font and zeros (R35, R42, R43; DEDUCED, log 26). -/
def Memory.unlisted (a : Nat) : Byte := font.getD a 0

/-- The byte at an address. -/
def Memory.read : Memory → Nat → Byte
  | [], a => Memory.unlisted a
  | (b, u) :: rest, a => if a = b then u else Memory.read rest a

/-- The cells with `v` listed at `a`, in address order. -/
def Memory.insert (a : Nat) (v : Byte) : Memory → Memory
  | [] => [(a, v)]
  | (b, u) :: rest =>
    if a < b then (a, v) :: (b, u) :: rest
    else if a = b then (a, v) :: rest
    else (b, u) :: Memory.insert a v rest

/-- The cells with nothing listed at `a`. -/
def Memory.erase (a : Nat) : Memory → Memory
  | [] => []
  | (b, u) :: rest => if a = b then Memory.erase a rest else (b, u) :: Memory.erase a rest

/-- One byte written; writing what an unlisted cell holds removes the pair. -/
def Memory.write (m : Memory) (a : Nat) (v : Byte) : Memory :=
  if v = Memory.unlisted a then Memory.erase a m else Memory.insert a v m

/-- Bytes written at `a`, `a+1`, ..., ascending (R48). -/
def Memory.writeList : Memory → Nat → List Byte → Memory
  | m, _, [] => m
  | m, a, v :: vs => Memory.writeList (m.write a v) (a + 1) vs

/-- The canonical form: addresses strictly rising and inside 0x000..0xFFF, no pair equal to the unlisted byte. -/
abbrev Memory.wf (m : Memory) : Prop :=
  m.Pairwise (fun c d => c.1 < d.1) ∧ ∀ c ∈ m, c.1 ≤ 0xFFF ∧ c.2 ≠ Memory.unlisted c.1

/-- The n bytes from `a` on lie inside memory: `a + n - 1 <= 0xFFF`, or nothing is accessed (R44, R45, R126). -/
abbrev inMemory (a n : Nat) : Prop := n = 0 ∨ a + n - 1 ≤ 0xFFF

/-- n reads of one byte, ascending, after one check of the whole range; none is the MEM_BOUNDS condition
(R44, R48, R126). -/
def State.readBlock (s : State) (a n : Nat) : Option (List Byte) :=
  if inMemory a n then some ((List.range n).map fun k => s.mem.read (a + k)) else none

/-- Writes of one byte each, ascending, after one check of the whole range; none is the MEM_BOUNDS condition
(R45, R48, R126). -/
def State.writeBlock (s : State) (a : Nat) (bytes : List Byte) : Option State :=
  if inMemory a bytes.length then some (s.setMem (s.mem.writeList a bytes)) else none

/-! The call stack. -/

/-- `push(w)`: STK[SP] <- w, SP <- SP + 1; none when 16 entries are in use (R82). -/
def State.push (s : State) (w : Word) : Option State :=
  if h : s.sp.val < 16 then
    some { s with stk := s.stk.set s.sp.val w h, sp := ⟨s.sp.val + 1, Nat.succ_lt_succ h⟩ }
  else none

/-- `pop()`: SP <- SP - 1 and the entry at the new SP, which stays where it is; none when the stack is empty (R80). -/
def State.pop (s : State) : Option (Word × State) :=
  if s.sp.val = 0 then none
  else some (s.stk[s.sp.val - 1]'(Nat.lt_of_le_of_lt (Nat.pred_le_pred (Nat.le_of_lt_succ s.sp.isLt)) (by decide)),
    { s with sp := ⟨s.sp.val - 1, Nat.lt_of_le_of_lt (Nat.sub_le _ _) s.sp.isLt⟩ })

/-! The inputs: free values drawn in turn (R29, R30). -/

/-- The value `KeyIn()` returns now (R29). -/
def State.keyNow (s : State) : Option Nibble := Config.keyIn s.keyReads

/-- One read of the key slot has been made; the next may see any other value (R56). -/
def State.countKeyRead (s : State) : State := { s with keyReads := s.keyReads + 1 }

/-- The byte `RandByte()` returns now (R30). -/
def State.rndNow (s : State) : Byte := Config.rndByte s.rndDraws

/-- One random byte has been drawn; the next is unrelated (R112). -/
def State.countDraw (s : State) : State := { s with rndDraws := s.rndDraws + 1 }

/-! The timer unit. -/

/-- One timer after one tick: one less, or 0 for ever (R195). -/
def countDown (b : Byte) : Byte := if b = 0 then 0 else b - 1

/-- The tick step, not enabled in HALT (R195, R197). -/
def State.tick (s : State) : State :=
  match s.run with
  | .halt => s
  | .run => { s with dt := countDown s.dt, st := countDown s.st }
  | .waitKey => { s with dt := countDown s.dt, st := countDown s.st }

/-! Whose turn it is (DESIGN CHOICE, log 3). -/

/-- The agent that acts next: the first one listed, or, with none listed, a free choice (R27, R196). -/
def State.turn (s : State) : Agent :=
  match s.turns with
  | [] => Config.turn s.turnsTaken
  | a :: _ => a

/-- The turn has been taken. -/
def State.takeTurn (s : State) : State := { s with turns := s.turns.tail, turnsTaken := s.turnsTaken + 1 }

/-- Turns listed ahead of all others. -/
def State.schedule (s : State) (agents : List Agent) : State := { s with turns := agents ++ s.turns }

end Sys2Proof.Machine
end

