-- ==== Sys2Proof/Machine/Operands.lean ====
section
/-!
DEFINITION. The operand forms (30_encoding.md R63): how a literal, a key code or a register's value is widened, the address
an instruction accesses memory at, the digits LD B,Vx stores, and the block of registers LD [I],Vx and LD Vx,[I] move.
Every instruction reads its operands from the state it starts in, before any write (41_load_and_alu.md R100).
-/

namespace Sys2Proof.Machine

/-- An address literal as a 16-bit value (R63). -/
def literalAddr (nnn : Addr) : Word := nnn.setWidth 16

/-- `zext_16` of a register's value (R7). -/
def widen (b : Byte) : Word := b.setWidth 16

/-- `zext_8` of a key code (R37, R160). -/
def keyByte (k : Nibble) : Byte := k.setWidth 8

/-- The effective address of offset 0, the base I; offset k is at `base + k`, never wrapped (R126). -/
def State.base (s : State) : Nat := s.idx.toNat

/-- How many registers LD [I],Vx and LD Vx,[I] move: V0..Vx, that is x+1 (R63). -/
def blockCount (x : Nibble) : Nat := x.toNat + 1

/-- The values of V0, V1, ..., n of them (R124). -/
def State.regList (s : State) (n : Nat) : List Byte := (List.range n).map fun k => s.reg (BitVec.ofNat 4 k)

/-- `V[k] <- byte` for k, k+1, ..., ascending (R125). -/
def State.setRegList : State → Nat → List Byte → State
  | s, _, [] => s
  | s, k, b :: bs => State.setRegList (s.setReg (BitVec.ofNat 4 k) b) (k + 1) bs

/-- The three base-10 digits of a byte, hundreds first (R123). -/
def decimalDigits (a : Byte) : List Byte :=
  [BitVec.ofNat 8 (a.toNat / 100), BitVec.ofNat 8 (a.toNat / 10 % 10), BitVec.ofNat 8 (a.toNat % 10)]

/-- The font address LD F,Vx computes: five times the whole byte (R122). -/
def glyphAddr (a : Byte) : Word := widen a * 5

/-- `(I + zext_16(a)) mod 4096` (R121). -/
def indexSum (i : Word) (a : Byte) : Word := BitVec.ofNat 16 ((i.toNat + a.toNat) % 4096)

end Sys2Proof.Machine
end

