-- ==== Sys2Proof/Machine/ControlFlow.lean ====
section
/-!
DEFINITION. Control flow (40_control_flow.md). In every meaning PC already holds the address of the next instruction
(10_state.md R15).
-/

namespace Sys2Proof.Machine

/-- The skip: two added to the already advanced PC when the condition holds (R88). -/
def State.skipIf (s : State) (c : Bool) : State := s.setPc (if c then s.pc + 2 else s.pc)

/-- RET (R80). -/
def execRet (s : State) : Result :=
  match s.pop with
  | none => raise .stackUnderflow s
  | some (w, t) => .next (t.setPc w)

/-- JP nnn (R81). -/
def execJp (nnn : Addr) (s : State) : Result := .next (s.setPc (literalAddr nnn))

/-- CALL nnn (R82). -/
def execCall (nnn : Addr) (s : State) : Result :=
  match s.push s.pc with
  | none => raise .stackOverflow s
  | some t => .next (t.setPc (literalAddr nnn))

/-- SE Vx,kk (R83). -/
def execSeVxKk (x : Nibble) (kk : Byte) (s : State) : Result := .next (s.skipIf (s.reg x == kk))

/-- SNE Vx,kk (R84). -/
def execSneVxKk (x : Nibble) (kk : Byte) (s : State) : Result := .next (s.skipIf (s.reg x != kk))

/-- SE Vx,Vy (R85). -/
def execSeVxVy (x y : Nibble) (s : State) : Result := .next (s.skipIf (s.reg x == s.reg y))

/-- SNE Vx,Vy (R86). -/
def execSneVxVy (x y : Nibble) (s : State) : Result := .next (s.skipIf (s.reg x != s.reg y))

/-- JP V0,nnn: the sum is not reduced (R87). -/
def execJpV0Nnn (nnn : Addr) (s : State) : Result := .next (s.setPc (literalAddr nnn + widen (s.reg 0)))

end Sys2Proof.Machine
end

