-- ==== Sys2Proof/Machine/Blit.lean ====
section
/-!
DEFINITION. The blit engine and its collision detector (43_display.md R142 to R145), and the framebuffer's two pixel
lookups (10_state.md R19, R31).
-/

namespace Sys2Proof.Machine

/-- `FB(x,y)`; off outside the grid (R19). -/
def Framebuffer.pixel (f : Framebuffer) (x y : Nat) : Bool :=
  if h : y < 32 then (f[y]).getLsbD x else false

/-- `FB[i]`, the linear lookup, i = y*64 + x (R19, R31). -/
def Framebuffer.pixelAt (f : Framebuffer) (i : Nat) : Bool := f.pixel (i % 64) (i / 64)

/-- `FB(x,y) <- FB(x,y) ^ s` (R142). -/
def Framebuffer.xorPixel (f : Framebuffer) (x y : Nat) (s : Bool) : Framebuffer :=
  if h : y < 32 then
    if s then f.set y (f[y] ^^^ BitVec.twoPow 64 x) else f
  else f

/-- Every pixel off (R140). -/
def Framebuffer.clear : Framebuffer := Vector.replicate 32 0

/-- Pixel j of a sprite row: bit 7 is the leftmost (R143; PRESUMED, log 14). -/
def spriteBit (row : Byte) (j : Nat) : Bool := row.getLsbD (7 - j)

/-- One pixel of a row: collision if both bits are 1, then the XOR; the column is taken modulo 64 (R142, R144, R145). -/
def blitPixel (ox : Byte) (ty : Nat) (row : Byte) (acc : Framebuffer × Bool) (j : Nat) : Framebuffer × Bool :=
  let tx := (ox.toNat + j) % 64
  let s := spriteBit row j
  (acc.1.xorPixel tx ty s, acc.2 || (s && acc.1.pixel tx ty))

/-- One row, its eight pixels left to right (R142). -/
def blitRow (ox : Byte) (ty : Nat) (row : Byte) (acc : Framebuffer × Bool) : Framebuffer × Bool :=
  [0, 1, 2, 3, 4, 5, 6, 7].foldl (blitPixel ox ty row) acc

/-- The rows from target row `ty` on; a target row below the screen ends the call (R142, R144). -/
def blitRows (ox : Byte) : Nat → List Byte → Framebuffer × Bool → Framebuffer × Bool
  | _, [], acc => acc
  | ty, row :: rest, acc => if ty > 31 then acc else blitRows ox (ty + 1) rest (blitRow ox ty row acc)

/-- `Blit(ox, oy, rows)`: the new framebuffer and the collision bit (R142). -/
def blit (ox oy : Byte) (rows : List Byte) (f : Framebuffer) : Framebuffer × Bool :=
  blitRows ox oy.toNat rows (f, false)

end Sys2Proof.Machine
end

