-- ==== Sys2Proof/Machine/Flags.lean ====
section
/-!
DEFINITION. The flag: VF as the six flag-writing instructions write it (10_state.md R12; 41_load_and_alu.md R100, R113).
-/

namespace Sys2Proof.Machine

/-- VF, register 15 (R8). -/
abbrev vf : Nibble := 15

/-- A flag as the byte 0 or 1 (R12). -/
def flagByte (c : Bool) : Byte := if c then 1 else 0

/-- ADD's flag: the carry, `a + b > 255` (R107). -/
def carryFlag (a b : Byte) : Bool := decide (a.toNat + b.toNat > 255)

/-- SUB's flag: `a > b`, strict, so 0 when the operands are equal (R108; DEDUCED, log 12). -/
def subFlag (a b : Byte) : Bool := decide (a.toNat > b.toNat)

/-- SUBN's flag: `b >= a`, so 1 when the operands are equal (R110; DEDUCED, log 12). -/
def subnFlag (a b : Byte) : Bool := decide (b.toNat ≥ a.toNat)

/-- SHR's flag: the bit shifted out, bit 0 (R109). -/
def shrFlag (a : Byte) : Bool := a.getLsbD 0

/-- SHL's flag: the bit shifted out, bit 7 (R111). -/
def shlFlag (a : Byte) : Bool := a.getLsbD 7

/-- The write order of the flag-writing ALU instructions: the flag to VF first, the result to V[x] second, so that with
x = 15 the result stands (R100; DEDUCED, log 13). -/
def State.setFlagThenReg (s : State) (x : Nibble) (flag : Bool) (result : Byte) : State :=
  (s.setReg vf (flagByte flag)).setReg x result

end Sys2Proof.Machine
end

