-- ==== Sys2Proof/Machine/Display.lean ====
section
/-!
DEFINITION. The display instructions (43_display.md).
-/

namespace Sys2Proof.Machine

/-- CLS (R140). -/
def execCls (s : State) : Result := .next ((s.setFb Framebuffer.clear).pulseInvalidate)

/-- DRW Vx,Vy,n: all n bytes are fetched first, then blitted; VF is written last (R141). -/
def execDrwVxVyN (x y n : Nibble) (s : State) : Result :=
  match s.readBlock s.base n.toNat with
  | none => raise .memBounds s
  | some rows =>
    let r := blit (s.reg x) (s.reg y) rows s.fb
    .next (((s.setFb r.1).setReg vf (flagByte r.2)).pulseInvalidate)

end Sys2Proof.Machine
end

