-- ==== Sys2Proof/Machine/IndexMemory.lean ====
section
/-!
DEFINITION. The index register and the memory instructions (42_index_and_memory.md). No access modifies I (R126).
-/

namespace Sys2Proof.Machine

/-- LD I,nnn (R120). -/
def execLdINnn (nnn : Addr) (s : State) : Result := .next (s.setIdx (literalAddr nnn))

/-- ADD I,Vx: modulo 4096, no flag (R121). -/
def execAddIVx (x : Nibble) (s : State) : Result := .next (s.setIdx (indexSum s.idx (s.reg x)))

/-- LD F,Vx (R122). -/
def execLdFVx (x : Nibble) (s : State) : Result := .next (s.setIdx (glyphAddr (s.reg x)))

/-- Bytes stored at I, I+1, ..., or MEM_BOUNDS with nothing written (R126). -/
def storeAtIndex (bytes : List Byte) (s : State) : Result :=
  match s.writeBlock s.base bytes with
  | none => raise .memBounds s
  | some t => .next t

/-- LD B,Vx (R123). -/
def execLdBVx (x : Nibble) (s : State) : Result := storeAtIndex (decimalDigits (s.reg x)) s

/-- LD [I],Vx (R124). -/
def execLdMemVx (x : Nibble) (s : State) : Result := storeAtIndex (s.regList (blockCount x)) s

/-- LD Vx,[I] (R125). -/
def execLdVxMem (x : Nibble) (s : State) : Result :=
  match s.readBlock s.base (blockCount x) with
  | none => raise .memBounds s
  | some bytes => .next (s.setRegList 0 bytes)

end Sys2Proof.Machine
end

