-- ==== Sys2Proof/Machine/LoadAlu.lean ====
section
/-!
DEFINITION. Register loads, the ALU and the random instruction (41_load_and_alu.md).
-/

namespace Sys2Proof.Machine

/-- LD Vx,kk (R101). -/
def execLdVxKk (x : Nibble) (kk : Byte) (s : State) : Result := .next (s.setReg x kk)

/-- ADD Vx,kk: modulo 256, no flag (R102). -/
def execAddVxKk (x : Nibble) (kk : Byte) (s : State) : Result := .next (s.setReg x (s.reg x + kk))

/-- LD Vx,Vy (R103). -/
def execLdVxVy (x y : Nibble) (s : State) : Result := .next (s.setReg x (s.reg y))

/-- OR Vx,Vy: VF is not written (R104). -/
def execOrVxVy (x y : Nibble) (s : State) : Result := .next (s.setReg x (s.reg x ||| s.reg y))

/-- AND Vx,Vy: VF is not written (R105). -/
def execAndVxVy (x y : Nibble) (s : State) : Result := .next (s.setReg x (s.reg x &&& s.reg y))

/-- XOR Vx,Vy: VF is not written (R106). -/
def execXorVxVy (x y : Nibble) (s : State) : Result := .next (s.setReg x (s.reg x ^^^ s.reg y))

/-- ADD Vx,Vy (R107). -/
def execAddVxVy (x y : Nibble) (s : State) : Result :=
  .next (s.setFlagThenReg x (carryFlag (s.reg x) (s.reg y)) (s.reg x + s.reg y))

/-- SUB Vx,Vy (R108). -/
def execSubVxVy (x y : Nibble) (s : State) : Result :=
  .next (s.setFlagThenReg x (subFlag (s.reg x) (s.reg y)) (s.reg x - s.reg y))

/-- SHR Vx: logical, V[y] plays no part (R109). -/
def execShrVx (x : Nibble) (s : State) : Result :=
  .next (s.setFlagThenReg x (shrFlag (s.reg x)) (s.reg x >>> 1))

/-- SUBN Vx,Vy (R110). -/
def execSubnVxVy (x y : Nibble) (s : State) : Result :=
  .next (s.setFlagThenReg x (subnFlag (s.reg x) (s.reg y)) (s.reg y - s.reg x))

/-- SHL Vx: V[y] plays no part (R111). -/
def execShlVx (x : Nibble) (s : State) : Result :=
  .next (s.setFlagThenReg x (shlFlag (s.reg x)) (s.reg x <<< 1))

/-- RND Vx,kk: a free byte, masked (R112; DESIGN CHOICE, log 5). -/
def execRndVxKk (x : Nibble) (kk : Byte) (s : State) : Result :=
  .next (s.countDraw.setReg x (s.rndNow &&& kk))

end Sys2Proof.Machine
end

