-- ==== Sys2Proof/Machine/TimersKeys.lean ====
section
/-!
DEFINITION. The key skips, the key wait and the timer access (44_timers_and_keys.md).
-/

namespace Sys2Proof.Machine

/-- A key is pressed and its zero-extended code equals the whole byte (R160). -/
def keyMatches (k : Option Nibble) (a : Byte) : Bool :=
  match k with
  | some c => a == keyByte c
  | none => false

/-- SKP Vx (R160). -/
def execSkpVx (x : Nibble) (s : State) : Result :=
  .next (s.countKeyRead.skipIf (keyMatches s.keyNow (s.reg x)))

/-- SKNP Vx: taken exactly when SKP's skip would not be (R161). -/
def execSknpVx (x : Nibble) (s : State) : Result :=
  .next (s.countKeyRead.skipIf (!keyMatches s.keyNow (s.reg x)))

/-- LD Vx,DT (R162). -/
def execLdVxDt (x : Nibble) (s : State) : Result := .next (s.setReg x s.dt)

/-- LD DT,Vx (R163). -/
def execLdDtVx (x : Nibble) (s : State) : Result := .next (s.setDt (s.reg x))

/-- LD ST,Vx (R164). -/
def execLdStVx (x : Nibble) (s : State) : Result := .next (s.setSt (s.reg x))

/-- LD Vx,K: a key held now is taken at once; otherwise the core enters WAIT_KEY and polls (R165). -/
def execLdVxK (x : Nibble) (s : State) : Result :=
  .next (match s.keyNow with
    | some k => s.countKeyRead.setReg x (keyByte k)
    | none => s.countKeyRead.setRun .waitKey)

end Sys2Proof.Machine
end

