-- ==== Sys2Proof/Syntax.lean ====
section
/-!
DEFINITION. The instructions: one constructor per row of spec/opcode_table.json, in the table's order (30_encoding.md R65).

Where an encoding has bits the machine ignores (R70, R71) the constructor keeps them as its last argument, so that the
words of an instruction and its terms correspond one to one. No meaning reads them; WellFormed says which are canonical.
-/

namespace Sys2Proof

/-- One instruction of the CHIP-8 core. x, y, n are nibbles, kk a byte, nnn an address literal (R61). -/
inductive Instr where
  /-- CLS, 00E0 (R140). -/
  | cls
  /-- RET, 00EE (R80). -/
  | ret
  /-- JP nnn, 1nnn (R81). -/
  | jp (nnn : Addr)
  /-- CALL nnn, 2nnn (R82). -/
  | call (nnn : Addr)
  /-- SE Vx,kk, 3xkk (R83). -/
  | seVxKk (x : Nibble) (kk : Byte)
  /-- SNE Vx,kk, 4xkk (R84). -/
  | sneVxKk (x : Nibble) (kk : Byte)
  /-- SE Vx,Vy, 5xy-; `lo` is the ignored low nibble (R85, R70). -/
  | seVxVy (x y lo : Nibble)
  /-- LD Vx,kk, 6xkk (R101). -/
  | ldVxKk (x : Nibble) (kk : Byte)
  /-- ADD Vx,kk, 7xkk (R102). -/
  | addVxKk (x : Nibble) (kk : Byte)
  /-- LD Vx,Vy, 8xy0 (R103). -/
  | ldVxVy (x y : Nibble)
  /-- OR Vx,Vy, 8xy1 (R104). -/
  | orVxVy (x y : Nibble)
  /-- AND Vx,Vy, 8xy2 (R105). -/
  | andVxVy (x y : Nibble)
  /-- XOR Vx,Vy, 8xy3 (R106). -/
  | xorVxVy (x y : Nibble)
  /-- ADD Vx,Vy, 8xy4 (R107). -/
  | addVxVy (x y : Nibble)
  /-- SUB Vx,Vy, 8xy5 (R108). -/
  | subVxVy (x y : Nibble)
  /-- SHR Vx, 8x-6; `y` is the ignored nibble (R109, R71). -/
  | shrVx (x y : Nibble)
  /-- SUBN Vx,Vy, 8xy7 (R110). -/
  | subnVxVy (x y : Nibble)
  /-- SHL Vx, 8x-E; `y` is the ignored nibble (R111, R71). -/
  | shlVx (x y : Nibble)
  /-- SNE Vx,Vy, 9xy-; `lo` is the ignored low nibble (R86, R70). -/
  | sneVxVy (x y lo : Nibble)
  /-- LD I,nnn, Annn (R120). -/
  | ldINnn (nnn : Addr)
  /-- JP V0,nnn, Bnnn (R87). -/
  | jpV0Nnn (nnn : Addr)
  /-- RND Vx,kk, Cxkk (R112). -/
  | rndVxKk (x : Nibble) (kk : Byte)
  /-- DRW Vx,Vy,n, Dxyn (R141). -/
  | drwVxVyN (x y n : Nibble)
  /-- SKP Vx, Ex9E (R160). -/
  | skpVx (x : Nibble)
  /-- SKNP Vx, ExA1 (R161). -/
  | sknpVx (x : Nibble)
  /-- LD Vx,DT, Fx07 (R162). -/
  | ldVxDt (x : Nibble)
  /-- LD Vx,K, Fx0A (R165). -/
  | ldVxK (x : Nibble)
  /-- LD DT,Vx, Fx15 (R163). -/
  | ldDtVx (x : Nibble)
  /-- LD ST,Vx, Fx18 (R164). -/
  | ldStVx (x : Nibble)
  /-- ADD I,Vx, Fx1E (R121). -/
  | addIVx (x : Nibble)
  /-- LD F,Vx, Fx29 (R122). -/
  | ldFVx (x : Nibble)
  /-- LD B,Vx, Fx33 (R123). -/
  | ldBVx (x : Nibble)
  /-- LD [I],Vx, Fx55 (R124). -/
  | ldMemVx (x : Nibble)
  /-- LD Vx,[I], Fx65 (R125). -/
  | ldVxMem (x : Nibble)
  deriving DecidableEq, Repr

end Sys2Proof
end

