-- ==== Sys2Proof/Decode.lean ====
section
/-!
DEFINITION. The decoder (30_encoding.md R64: total, pure, looks at the word only) and, after it, the encoder written from
the same opcode map (R65).
-/

namespace Sys2Proof

/-- Why a word or a byte list is no instruction. -/
inductive DecodeError where
  /-- The decoder's Unsupported tag, with the word (R64, R69). -/
  | unsupported (w : Word)
  /-- Fewer than two bytes: an instruction is exactly 16 bits (R60). -/
  | truncated
  deriving DecidableEq, Repr

/-- op, w[15:12]: the first discriminator (R61). -/
def fieldOp (w : Word) : Nibble := w.extractLsb' 12 4
/-- x, w[11:8] (R61). -/
def fieldX (w : Word) : Nibble := w.extractLsb' 8 4
/-- y, w[7:4] (R61). -/
def fieldY (w : Word) : Nibble := w.extractLsb' 4 4
/-- n, w[3:0]: DRW's row count, and the second discriminator of family 8 (R61). -/
def fieldN (w : Word) : Nibble := w.extractLsb' 0 4
/-- kk, w[7:0]: a literal, and the second discriminator of families E and F (R61). -/
def fieldKk (w : Word) : Byte := w.extractLsb' 0 8
/-- nnn, w[11:0] (R61). -/
def fieldNnn (w : Word) : Addr := w.extractLsb' 0 12

/-- Family 8, refined by the low nibble (R66). -/
def decodeFamily8 (w : Word) : Except DecodeError Instr :=
  match (fieldN w).toNat with
  | 0x0 => .ok (.ldVxVy (fieldX w) (fieldY w))
  | 0x1 => .ok (.orVxVy (fieldX w) (fieldY w))
  | 0x2 => .ok (.andVxVy (fieldX w) (fieldY w))
  | 0x3 => .ok (.xorVxVy (fieldX w) (fieldY w))
  | 0x4 => .ok (.addVxVy (fieldX w) (fieldY w))
  | 0x5 => .ok (.subVxVy (fieldX w) (fieldY w))
  | 0x6 => .ok (.shrVx (fieldX w) (fieldY w))
  | 0x7 => .ok (.subnVxVy (fieldX w) (fieldY w))
  | 0xE => .ok (.shlVx (fieldX w) (fieldY w))
  | _ => .error (.unsupported w)

/-- Family E, refined by the low byte (R67). -/
def decodeFamilyE (w : Word) : Except DecodeError Instr :=
  if fieldKk w = 0x9E then .ok (.skpVx (fieldX w))
  else if fieldKk w = 0xA1 then .ok (.sknpVx (fieldX w))
  else .error (.unsupported w)

/-- Family F, refined by the low byte (R68). -/
def decodeFamilyF (w : Word) : Except DecodeError Instr :=
  if fieldKk w = 0x07 then .ok (.ldVxDt (fieldX w))
  else if fieldKk w = 0x0A then .ok (.ldVxK (fieldX w))
  else if fieldKk w = 0x15 then .ok (.ldDtVx (fieldX w))
  else if fieldKk w = 0x18 then .ok (.ldStVx (fieldX w))
  else if fieldKk w = 0x1E then .ok (.addIVx (fieldX w))
  else if fieldKk w = 0x29 then .ok (.ldFVx (fieldX w))
  else if fieldKk w = 0x33 then .ok (.ldBVx (fieldX w))
  else if fieldKk w = 0x55 then .ok (.ldMemVx (fieldX w))
  else if fieldKk w = 0x65 then .ok (.ldVxMem (fieldX w))
  else .error (.unsupported w)

/-- The dispatch of R64: the two exact words first, then the top nibble, then the second discriminators. -/
def decode (w : Word) : Except DecodeError Instr :=
  if w = 0x00E0 then .ok .cls
  else if w = 0x00EE then .ok .ret
  else match (fieldOp w).toNat with
  | 0x0 => .error (.unsupported w)
  | 0x1 => .ok (.jp (fieldNnn w))
  | 0x2 => .ok (.call (fieldNnn w))
  | 0x3 => .ok (.seVxKk (fieldX w) (fieldKk w))
  | 0x4 => .ok (.sneVxKk (fieldX w) (fieldKk w))
  | 0x5 => .ok (.seVxVy (fieldX w) (fieldY w) (fieldN w))
  | 0x6 => .ok (.ldVxKk (fieldX w) (fieldKk w))
  | 0x7 => .ok (.addVxKk (fieldX w) (fieldKk w))
  | 0x8 => decodeFamily8 w
  | 0x9 => .ok (.sneVxVy (fieldX w) (fieldY w) (fieldN w))
  | 0xA => .ok (.ldINnn (fieldNnn w))
  | 0xB => .ok (.jpV0Nnn (fieldNnn w))
  | 0xC => .ok (.rndVxKk (fieldX w) (fieldKk w))
  | 0xD => .ok (.drwVxVyN (fieldX w) (fieldY w) (fieldN w))
  | 0xE => decodeFamilyE w
  | _ => decodeFamilyF w

/-- Two bytes make a word: the byte at the lower address is bits 15:8 (20_memory.md R46). -/
def bigEndian (hi lo : Byte) : Word := hi ++ lo

/-- The decoder over bytes: it reads the first two, as the fetch does (R46, R60), and returns the rest. -/
def decodeBytes : List Byte → Except DecodeError (Instr × List Byte)
  | hi :: lo :: rest =>
    match decode (bigEndian hi lo) with
    | .ok i => .ok (i, rest)
    | .error e => .error e
  | [_] => .error .truncated
  | [] => .error .truncated

/-- A word of four nibbles, the first the top one (R61, R62). -/
def wordOf (op x y n : Nibble) : Word := op ++ x ++ y ++ n
/-- A word of format XKK or XF: op, x and a low byte (R62). -/
def wordXkk (op x : Nibble) (kk : Byte) : Word := op ++ x ++ kk
/-- A word of format NNN: op and an address (R62). -/
def wordNnn (op : Nibble) (nnn : Addr) : Word := op ++ nnn

/-- The word of an instruction, row by row from the opcode map (R65). -/
def encode : Instr → Word
  | .cls => 0x00E0
  | .ret => 0x00EE
  | .jp nnn => wordNnn 0x1 nnn
  | .call nnn => wordNnn 0x2 nnn
  | .seVxKk x kk => wordXkk 0x3 x kk
  | .sneVxKk x kk => wordXkk 0x4 x kk
  | .seVxVy x y lo => wordOf 0x5 x y lo
  | .ldVxKk x kk => wordXkk 0x6 x kk
  | .addVxKk x kk => wordXkk 0x7 x kk
  | .ldVxVy x y => wordOf 0x8 x y 0x0
  | .orVxVy x y => wordOf 0x8 x y 0x1
  | .andVxVy x y => wordOf 0x8 x y 0x2
  | .xorVxVy x y => wordOf 0x8 x y 0x3
  | .addVxVy x y => wordOf 0x8 x y 0x4
  | .subVxVy x y => wordOf 0x8 x y 0x5
  | .shrVx x y => wordOf 0x8 x y 0x6
  | .subnVxVy x y => wordOf 0x8 x y 0x7
  | .shlVx x y => wordOf 0x8 x y 0xE
  | .sneVxVy x y lo => wordOf 0x9 x y lo
  | .ldINnn nnn => wordNnn 0xA nnn
  | .jpV0Nnn nnn => wordNnn 0xB nnn
  | .rndVxKk x kk => wordXkk 0xC x kk
  | .drwVxVyN x y n => wordOf 0xD x y n
  | .skpVx x => wordXkk 0xE x 0x9E
  | .sknpVx x => wordXkk 0xE x 0xA1
  | .ldVxDt x => wordXkk 0xF x 0x07
  | .ldVxK x => wordXkk 0xF x 0x0A
  | .ldDtVx x => wordXkk 0xF x 0x15
  | .ldStVx x => wordXkk 0xF x 0x18
  | .addIVx x => wordXkk 0xF x 0x1E
  | .ldFVx x => wordXkk 0xF x 0x29
  | .ldBVx x => wordXkk 0xF x 0x33
  | .ldMemVx x => wordXkk 0xF x 0x55
  | .ldVxMem x => wordXkk 0xF x 0x65

/-- The two bytes of a word as memory holds them, high byte first (R46). -/
def wordBytes (w : Word) : List Byte := [w.extractLsb' 8 8, w.extractLsb' 0 8]

/-- The two bytes of an instruction as memory holds them. -/
def encodeBytes (i : Instr) : List Byte := wordBytes (encode i)

/-- The bytes of a row of spec/opcode_table.json whose bits are `w`: one word, the bits above `nbits` zero. -/
def tableBytes (nbits w : Nat) : List Byte := wordBytes (BitVec.ofNat 16 (w % 2 ^ nbits))

/-- What the decoder reads from a row of spec/opcode_table.json whose bits are `w`. -/
def decodeTableWord (nbits w : Nat) : Option Instr :=
  match decodeBytes (tableBytes nbits w) with
  | .ok (i, _) => some i
  | .error _ => none

end Sys2Proof
end

