-- ==== Sys2Proof/Machine/Engine.lean ====
section
/-!
DEFINITION. What the engine does around the meaning of an instruction: the fetch (10_state.md R28), the fault of a fetch
outside memory and of an Unsupported word (60_exceptions.md R181, R184), the poll in WAIT_KEY (R37), and HALT (R185).
-/

namespace Sys2Proof.Machine

/-- `MemRead(PC, 2)`: the word at PC, high byte first; none is the MEM_BOUNDS condition PC > 0xFFE (R28, R44, R46). -/
def State.fetch (s : State) : Option Word :=
  if s.pc.toNat + 1 > 0xFFF then none
  else some (bigEndian (s.mem.read s.pc.toNat) (s.mem.read (s.pc.toNat + 1)))

/-- `IR <- w; PC <- PC + 2`, before the instruction executes (R15, R28). -/
def State.fetched (s : State) (w : Word) : State := (s.setIr w).setPc (s.pc + 2)

/-- A fetch outside memory: MEM_BOUNDS with PC and IR unchanged (R28, R186). -/
def fetchFault (s : State) : Result := raise .memBounds s

/-- An Unsupported word: the fault, with IR the word and PC already advanced (R181). -/
def unsupportedWord (s : State) : Result := raise .unsupportedOpcode s

/-- The poll step: a reported key goes to the register IR names and the core runs again; PC is not changed (R37). -/
def pollStep (s : State) : Result :=
  .next (match s.keyNow with
    | some k => (s.countKeyRead.setReg (fieldX s.ir) (keyByte k)).setRun .run
    | none => s.countKeyRead)

/-- The tick step, the timer unit's one action (60_exceptions.md R195). -/
def tickStep (s : State) : Result := .next s.tick

/-- HALT: nothing is enabled and every piece of state keeps its value (R185, R197; DEDUCED, log 2). -/
def haltStep (s : State) : Result := .next s

/-- A word placed where the next step fetches: the next turn made the engine's, RUN_STATE made RUN, PC kept if it can be fetched from and else set to
0x200, the two bytes stored there (DESIGN CHOICE, log 20). -/
def State.placeWord (s : State) (bytes : List Byte) : State :=
  let t := ((s.schedule [.engine]).setRun .run).setPc (if s.pc.toNat ≤ 0xFFE then s.pc else 0x0200)
  t.setMem (t.mem.writeList t.pc.toNat bytes)

end Sys2Proof.Machine
end

