-- ==== Sys2Proof/Machine/Cycle.lean ====
section
/-!
DEFINITION. The engine's cycle: the instruction step, the engine's step by RUN_STATE, and one step of the machine: the step of
the agent whose turn it is (10_state.md R27, R28, R37; DESIGN CHOICE, log 3).
-/

namespace Sys2Proof.Machine

/-- The instruction step in RUN: fetch, decode, execute (R28), the faults tested in that order (R188). -/
def instructionStep (s : State) : Result :=
  match s.fetch with
  | none => fetchFault s
  | some w =>
    match decode w with
    | .ok i => exec i (s.fetched w)
    | .error _ => unsupportedWord (s.fetched w)

/-- The engine's step in each RUN_STATE (R27, R28, R37, R185). -/
def engineStep (s : State) : Result :=
  match s.run with
  | .run => instructionStep s
  | .waitKey => pollStep s
  | .halt => haltStep s

/-- One step of the machine: in HALT nothing, else one step of the agent whose turn it is (R27). -/
def machineStep (s : State) : Result :=
  if s.run = .halt then haltStep s
  else match s.turn with
  | .engine => engineStep s.takeTurn
  | .timerUnit => tickStep s.takeTurn

end Sys2Proof.Machine
end

