-- ==== Sys2Proof/Machine/Step.lean ====
section
/-!
DEFINITION. The machine's step, and the host's probe; what they do is in Machine/Cycle.lean and Machine/Engine.lean.
-/

namespace Sys2Proof.Machine

/-- One step (R27). -/
def step (s : State) : Host.Outcome State Fault Refusal := machineStep s

/-- The state with a row's instruction where the next step fetches (log 20). -/
def State.withFetchWord (s : State) (nbits w : Nat) : State := s.placeWord (tableBytes nbits w)

end Sys2Proof.Machine
end

