-- ==== Sys2Proof/Machine/Host.lean ====
section
/-!
DEFINITION. What the host may do to the core (70_reset_and_hazards.md R210, R221): load an image and start, and assert
reset with a fresh image. It has no other access.
-/

namespace Sys2Proof.Machine

/-- The default of the parameter FONT (R42; DESIGN CHOICE, log 7). -/
def defaultFont : Vector Byte 80 := ⟨⟨font⟩, rfl⟩

/-- Load and start with the parameters FONT and IMAGE: the reset state with FONT at 0x000 and IMAGE at 0x200
(R6, R35, R57); an image longer than 3584 bytes is no launch (DEDUCED, log 9). -/
def launchWith (glyphs : Vector Byte 80) (image : List Byte) : Result :=
  if image.length ≤ 3584 then
    .next (State.reset.setMem ((State.reset.mem.writeList 0 glyphs.toList).writeList 0x200 image))
  else .refused (.imageTooLong image.length)

/-- Load and start with the default FONT. -/
def launch (image : List Byte) : Result := launchWith defaultFont image

/-- Reset asserted in any state, HALT and WAIT_KEY included, with a fresh image (R210, R221). The model's own counters go
on, so that the new run's free values are not those of the old one (DESIGN CHOICE, log 19). -/
def assertReset (glyphs : Vector Byte 80) (image : List Byte) (s : State) : Result :=
  match launchWith glyphs image with
  | .next t => .next { t with rndDraws := s.rndDraws, keyReads := s.keyReads, turnsTaken := s.turnsTaken,
                              invalidates := s.invalidates }
  | .fault f => .fault f
  | .refused r => .refused r

end Sys2Proof.Machine
end

