-- ==== Sys2Proof/Machine/Outputs.lean ====
section
/-!
DEFINITION. The outputs, functions of the state (10_state.md R31 to R33). The pulse fb_invalidate is recorded by
`State.pulseInvalidate` (Machine/Ops.lean; DESIGN CHOICE, log 11).
-/

namespace Sys2Proof.Machine

/-- The number of a fault cause, 3 bits; 0 is none (R25, R180). -/
def causeCode : Option Fault → BitVec 3
  | none => 0
  | some .unsupportedOpcode => 1
  | some .stackUnderflow => 2
  | some .stackOverflow => 3
  | some .memBounds => 4

/-- `fb`: pixel i of the 2048, i = y*64 + x (R31). -/
def State.fbOut (s : State) (i : Nat) : Bool := s.fb.pixelAt i

/-- `snd_active`: 1 exactly when ST != 0 (R32). -/
def State.sndActive (s : State) : Bool := s.st != 0

/-- `halted`: 1 exactly when RUN_STATE = HALT (R33). -/
def State.halted (s : State) : Bool := s.run == .halt

/-- `fault_cause` presents FAULT_CAUSE (R33). -/
def State.faultCause (s : State) : BitVec 3 := causeCode s.cause

/-- `fault_instr` presents IR (R33). -/
def State.faultInstr (s : State) : Word := s.ir

end Sys2Proof.Machine
end

