-- ==== Sys2Proof/Safety.lean ====
section
/-!
DEFINITION. The terms claims use: a safe run, the normal end of a run (70_reset_and_hazards.md R218), the invariant every
step keeps, and the vocabulary of frames.
-/

namespace Sys2Proof.Machine

/-- n steps in a row, stopping at the first that ends in no next state. -/
def steps : Nat → State → Result
  | 0, s => .next s
  | n + 1, s =>
    match step s with
    | .next t => steps n t
    | .fault f => .fault f
    | .refused r => .refused r

/-- No fault has been taken (R185). -/
abbrev State.live (s : State) : Prop := s.run ≠ .halt

/-- The normal end of a run: RUN, and the word at PC is a jump to PC itself, `0x1000 | PC`, PC <= 0xFFE (R218). -/
abbrev State.terminal (s : State) : Prop :=
  s.run = .run ∧ s.pc.toNat ≤ 0xFFE ∧ s.fetch = some (0x1000 ||| s.pc)

/-- What holds of the state at every moment of a run. -/
structure State.Inv (s : State) : Prop where
  /-- Memory is in its canonical form. -/
  memWf : s.mem.wf
  /-- I <= 0xFFF (R14). -/
  idxBound : s.idx.toNat ≤ 0xFFF
  /-- PC <= 0x10FE (R16). -/
  pcBound : s.pc.toNat ≤ 0x10FE
  /-- The entries in use are return addresses, 0x0002..0x1000 (R80). -/
  stkBound : ∀ k : Fin 16, k.val < s.sp.val → 0x0002 ≤ s.stk[k].toNat ∧ s.stk[k].toNat ≤ 0x1000
  /-- FAULT_CAUSE is non-zero exactly in HALT (R25, R185). -/
  haltCause : s.run = .halt ↔ s.cause ≠ none
  /-- In WAIT_KEY, IR holds a LD Vx,K word (R24, R165). -/
  waitIr : s.run = .waitKey → s.ir &&& 0xF0FF = 0xF00A

/-- The pieces of the state, as frames name them. -/
inductive Part where
  | regs | idx | pc | delay | sound | stack | screen | pulses | memory | runState | ir | cause | draws | keyReads | turns
  deriving DecidableEq, Repr

/-- One piece is the same in both states; memory is compared by what every address reads as. -/
def Same (s t : State) : Part → Prop
  | .regs => ∀ r : Nibble, t.reg r = s.reg r
  | .idx => t.idx = s.idx
  | .pc => t.pc = s.pc
  | .delay => t.dt = s.dt
  | .sound => t.st = s.st
  | .stack => t.sp = s.sp ∧ t.stk = s.stk
  | .screen => t.fb = s.fb
  | .pulses => t.invalidates = s.invalidates
  | .memory => ∀ a : Nat, t.mem.read a = s.mem.read a
  | .runState => t.run = s.run
  | .ir => t.ir = s.ir
  | .cause => t.cause = s.cause
  | .draws => t.rndDraws = s.rndDraws
  | .keyReads => t.keyReads = s.keyReads
  | .turns => t.turns = s.turns ∧ t.turnsTaken = s.turnsTaken

/-- Every piece is the same but, possibly, those listed. -/
def SameExcept (changed : List Part) (s t : State) : Prop := ∀ p : Part, p ∉ changed → Same s t p

/-- Every register is the same but, possibly, those named. -/
def SameRegsBut (changed : Nibble → Prop) (s t : State) : Prop := ∀ r : Nibble, ¬ changed r → t.reg r = s.reg r

/-- A fault with cause c has been taken out of s, and nothing else has changed (R185, R186). -/
def FaultTaken (c : Fault) (s t : State) : Prop :=
  t.run = .halt ∧ t.cause = some c ∧ SameExcept [.runState, .cause] s t

/-- The instruction is read from exactly one word, this one (R65). -/
def ReadExactlyFrom (i : Instr) (w : Word) : Prop := ∀ u : Word, decode u = .ok i ↔ u = w

end Sys2Proof.Machine
end

