-- ==== Sys2Proof/WellFormed.lean ====
section
/-!
DEFINITION. Which instructions a well-formed program may contain: the canonical encodings, every ignored bit zero
(30_encoding.md R71, R77). The machine executes the others all the same (R70, R71); this check refuses them by name.
-/

namespace Sys2Proof

/-- Why an instruction is not canonical. -/
inductive IllFormed where
  /-- SE Vx,Vy or SNE Vx,Vy with a low nibble other than 0 (R70). -/
  | ignoredLowNibble (lo : Nibble)
  /-- SHR Vx or SHL Vx with a y nibble other than 0 (R71). -/
  | ignoredY (y : Nibble)
  deriving DecidableEq, Repr

/-- The reason an instruction is not canonical, or none (R77). -/
def Instr.illFormed? : Instr → Option IllFormed
  | .seVxVy _ _ lo => if lo = 0 then none else some (.ignoredLowNibble lo)
  | .sneVxVy _ _ lo => if lo = 0 then none else some (.ignoredLowNibble lo)
  | .shrVx _ y => if y = 0 then none else some (.ignoredY y)
  | .shlVx _ y => if y = 0 then none else some (.ignoredY y)
  | .cls | .ret | .jp _ | .call _ | .seVxKk _ _ | .sneVxKk _ _ | .ldVxKk _ _ | .addVxKk _ _
  | .ldVxVy _ _ | .orVxVy _ _ | .andVxVy _ _ | .xorVxVy _ _ | .addVxVy _ _ | .subVxVy _ _
  | .subnVxVy _ _ | .ldINnn _ | .jpV0Nnn _ | .rndVxKk _ _ | .drwVxVyN _ _ _ | .skpVx _ | .sknpVx _
  | .ldVxDt _ | .ldVxK _ | .ldDtVx _ | .ldStVx _ | .addIVx _ | .ldFVx _ | .ldBVx _ | .ldMemVx _
  | .ldVxMem _ => none

/-- The instruction is canonical: the ignored bits of its encoding are zero (R71, R77). -/
abbrev Instr.WellFormed (i : Instr) : Prop := i.illFormed? = none

end Sys2Proof
end

