-- ==== Sys2Proof/Certificates/Slice0/Obligations.lean ====
section
/-!
DEFINITION. The statements for the provers, by the files of spec/ they rest on.
-/

open Sys2Proof Sys2Proof.Machine

/-! ### Reset, the host, the engine -/

/-- R35: what the launch with a FONT and an image leaves in every piece of state; the default FONT and the empty image give
`State.reset`. -/
def Obligations.LaunchGivesResetValues : Prop :=
  launch [] = .next State.reset ∧
  ∀ (glyphs : Vector Byte 80) (image : List Byte), image.length ≤ 3584 →
    ∃ t, launchWith glyphs image = .next t ∧
      t.pc = 0x0200 ∧ (∀ r : Nibble, t.reg r = 0) ∧ t.idx = 0 ∧ t.dt = 0 ∧ t.st = 0 ∧ t.sp.val = 0 ∧
      (∀ k : Fin 16, t.stk[k] = 0) ∧ (∀ i < 2048, t.fbOut i = false) ∧ t.run = .run ∧ t.ir = 0 ∧ t.faultCause = 0 ∧
      (∀ a (h : a < 80), t.mem.read a = glyphs[a]) ∧
      (∀ a, 0x50 ≤ a → a < 0x200 → t.mem.read a = 0) ∧
      (∀ k (h : k < image.length), t.mem.read (0x200 + k) = image[k]) ∧
      (∀ a, 0x200 + image.length ≤ a → a ≤ 0xFFF → t.mem.read a = 0)

/-- 20_memory.md section 8, 70_reset_and_hazards.md section 1: an image too long starts nothing; reset asserted in any
state, HALT and WAIT_KEY included, gives the launch state in every piece the spec names (the model's own counters go on,
log 19). -/
def Obligations.ResetFromAnyState : Prop :=
  (∀ (glyphs : Vector Byte 80) (image : List Byte), 3584 < image.length →
    launchWith glyphs image = .refused (.imageTooLong image.length)) ∧
  ∀ (glyphs : Vector Byte 80) (image : List Byte) (s : State), image.length ≤ 3584 →
    ∃ t u, assertReset glyphs image s = .next t ∧ launchWith glyphs image = .next u ∧
      SameExcept [.draws, .keyReads, .turns, .pulses] u t

/-- R28, R37: one step when it is the engine's turn (log 3), in RUN and in WAIT_KEY: the fetch, the decoder and the
instruction, or the poll; a fault leaves all else as the fetch left it. `s.takeTurn` is s with the turn taken. -/
def Obligations.StepRunsDecodedInstruction : Prop :=
  (∀ s : State, s.turn = .engine →
    (s.run = .run → step s = instructionStep s.takeTurn) ∧ (s.run = .waitKey → step s = pollStep s.takeTurn)) ∧
  (∀ s : State, s.turn = .engine → s.run = .run → 0xFFE < s.pc.toNat →
    ∃ t, step s = .next t ∧ FaultTaken .memBounds s.takeTurn t) ∧
  (∀ (s : State) (i : Instr), s.turn = .engine → s.run = .run → s.pc.toNat ≤ 0xFFE →
    decode (s.mem.read s.pc.toNat ++ s.mem.read (s.pc.toNat + 1)) = .ok i →
    step s = exec i ((s.takeTurn.setIr (s.mem.read s.pc.toNat ++ s.mem.read (s.pc.toNat + 1))).setPc (s.pc + 2))) ∧
  (∀ s : State, s.turn = .engine → s.run = .run → s.pc.toNat ≤ 0xFFE →
    (∀ i, decode (s.mem.read s.pc.toNat ++ s.mem.read (s.pc.toNat + 1)) ≠ .ok i) →
    ∃ t, step s = .next t ∧ FaultTaken .unsupportedOpcode
      ((s.takeTurn.setIr (s.mem.read s.pc.toNat ++ s.mem.read (s.pc.toNat + 1))).setPc (s.pc + 2)) t) ∧
  (∀ (i : Instr) (u t : State), u.live → exec i u = .next t → ¬ t.live → ∃ c, FaultTaken c u t)

/-- R181: an Unsupported word at PC. -/
def Obligations.UnsupportedWordHalts : Prop :=
  ∀ s : State, s.pc.toNat ≤ 0xFFE →
    decode (s.mem.read s.pc.toNat ++ s.mem.read (s.pc.toNat + 1)) =
      .error (.unsupported (s.mem.read s.pc.toNat ++ s.mem.read (s.pc.toNat + 1))) →
    ∃ t, instructionStep s = .next t ∧ t.run = .halt ∧ t.faultCause = 1 ∧
      t.faultInstr = s.mem.read s.pc.toNat ++ s.mem.read (s.pc.toNat + 1) ∧ t.pc = s.pc + 2 ∧
      SameExcept [.runState, .cause, .ir, .pc] s t

/-- R186: what an instruction step that takes a fault has changed, and where the faulting instruction stands. -/
def Obligations.FaultsArePrecise : Prop :=
  ∀ s t : State, s.live → instructionStep s = .next t → ¬ t.live →
    t.run = .halt ∧ (∃ c, t.cause = some c) ∧
    SameExcept [.runState, .cause, .ir, .pc] s t ∧
    (if s.pc.toNat ≤ 0xFFE then
      t.ir = s.mem.read s.pc.toNat ++ s.mem.read (s.pc.toNat + 1) ∧ t.pc = s.pc + 2 ∧ s.pc = t.pc - 2
    else t.ir = s.ir ∧ t.pc = s.pc)

/-- The execute-phase condition of an instruction (R180, R184, R188). -/
def Sys2Proof.Machine.faultCondition (i : Instr) (s : State) : Option Fault :=
  match i with
  | .ret => if s.sp.val = 0 then some .stackUnderflow else none
  | .call _ => if s.sp.val = 16 then some .stackOverflow else none
  | .drwVxVyN _ _ n => if 0 < n.toNat ∧ 0xFFF < s.idx.toNat + n.toNat - 1 then some .memBounds else none
  | .ldBVx _ => if 0xFFF < s.idx.toNat + 2 then some .memBounds else none
  | .ldMemVx x | .ldVxMem x => if 0xFFF < s.idx.toNat + x.toNat then some .memBounds else none
  | _ => none

/-- R180, R184, R188: every instruction ends in a next state, and it takes a fault in exactly the conditions listed. -/
def Obligations.FaultsExactlyWhenListed : Prop :=
  (∀ (i : Instr) (s : State), s.live → ∃ t, exec i s = .next t ∧
    (∀ c, faultCondition i s = some c → FaultTaken c s t) ∧ (faultCondition i s = none → t.live ∧ t.cause = s.cause)) ∧
  (∀ s : State, s.run = .run → (s.fetch = none ↔ 0xFFE < s.pc.toNat))

/-- R185: `raise Fault(c)` writes FAULT_CAUSE and RUN_STATE and nothing else; in HALT every piece of state keeps its value
through every step and every tick, and the outputs present the report. -/
def Obligations.FaultEntryAndHalt : Prop :=
  (∀ (c : Fault) (s : State), ∃ t, raise c s = .next t ∧ FaultTaken c s t ∧
    t.halted = true ∧ t.faultCause = causeCode (some c) ∧ t.faultInstr = s.ir) ∧
  (∀ s t : State, s.run = .halt → step s = .next t → t = s) ∧
  (∀ s : State, s.run = .halt → s.tick = s)

/-- R37: the poll step, and the ticks that go on beside it. `s.keyNow` is KeyIn() at this step, a free value. -/
def Obligations.PollTakesKeyOrWaits : Prop :=
  (∀ s : State, ∃ t, pollStep s = .next t ∧
    match s.keyNow with
    | some k => (t.reg (s.ir.extractLsb' 8 4)).toNat = k.toNat ∧ t.run = .run ∧
        SameRegsBut (fun r => r = s.ir.extractLsb' 8 4) s t ∧ SameExcept [.regs, .runState, .keyReads] s t
    | none => SameExcept [.keyReads] s t) ∧
  (∀ s : State, s.run = .waitKey →
    s.tick.dt.toNat = s.dt.toNat - 1 ∧ s.tick.st.toNat = s.st.toNat - 1)

/-! ### The timer unit -/

/-- R195, R197: one tick in RUN and in WAIT_KEY, and none in HALT. -/
def Obligations.TickCountsBothTimersDown : Prop :=
  ∀ s : State,
    (s.live → (s.tick.dt.toNat = s.dt.toNat - 1 ∧ s.tick.st.toNat = s.st.toNat - 1 ∧
      SameExcept [.delay, .sound] s s.tick)) ∧
    (¬ s.live → s.tick = s)

/-- 10_state.md section 11: the timer unit has a step of its own, in RUN and in WAIT_KEY, between any two engine steps; and
whatever the state, either agent may be the next to act (log 3). -/
def Obligations.EitherAgentTakesItsOwnStep : Prop :=
  ∀ s : State,
    (s.live → s.turn = .timerUnit → ∃ t, step s = .next t ∧
      t.dt.toNat = s.dt.toNat - 1 ∧ t.st.toNat = s.st.toNat - 1 ∧ SameExcept [.delay, .sound, .turns] s t) ∧
    (s.live → s.turn = .engine → step s = engineStep s.takeTurn) ∧
    (∀ a : Agent, (s.schedule [a]).turn = a ∧ SameExcept [.turns] s (s.schedule [a]) ∧
      (s.live → ∃ t, step (s.schedule [a]) = .next t ∧ t.turns = s.turns))

/-- 60_exceptions.md section 6: any number of tick steps in a row between two engine steps lower the timers by that number,
stopping at 0, and change nothing else; in a turn list that begins with n turns of the timer unit the next n steps are
ticks (log 3). -/
def Obligations.GapIsSomeNumberOfTicks : Prop :=
  ∀ (n : Nat) (rest : List Agent) (s : State), s.live → s.turns = List.replicate n .timerUnit ++ rest →
    ∃ t, steps n s = .next t ∧ t.turns = rest ∧
      t.dt.toNat = s.dt.toNat - n ∧ t.st.toNat = s.st.toNat - n ∧ SameExcept [.delay, .sound, .turns] s t

/-! ### The decoder -/

/-- 30_encoding.md sections 1 and 2: decoding an encoded instruction gives it back, as a word and as bytes. -/
def Obligations.DecodeOfEncode : Prop :=
  ∀ i : Instr, decode (encode i) = .ok i ∧
    ∀ rest : List Byte, decodeBytes (encodeBytes i ++ rest) = .ok (i, rest)

/-- 30_encoding.md section 2: a word is the encoding of the instruction it decodes to. -/
def Obligations.EncodeOfDecode : Prop :=
  ∀ (w : Word) (i : Instr), decode w = .ok i → encode i = w

/-- The row of the opcode map an instruction belongs to: match and mask (R65). -/
def Sys2Proof.Machine.opcodeRow : Instr → Word × Word
  | .cls => (0x00E0, 0xFFFF) | .ret => (0x00EE, 0xFFFF) | .jp _ => (0x1000, 0xF000) | .call _ => (0x2000, 0xF000)
  | .seVxKk _ _ => (0x3000, 0xF000) | .seVxVy _ _ _ => (0x5000, 0xF000) | .sneVxKk _ _ => (0x4000, 0xF000)
  | .sneVxVy _ _ _ => (0x9000, 0xF000) | .ldVxKk _ _ => (0x6000, 0xF000) | .ldVxVy _ _ => (0x8000, 0xF00F)
  | .addVxKk _ _ => (0x7000, 0xF000) | .orVxVy _ _ => (0x8001, 0xF00F) | .andVxVy _ _ => (0x8002, 0xF00F)
  | .xorVxVy _ _ => (0x8003, 0xF00F) | .addVxVy _ _ => (0x8004, 0xF00F) | .subVxVy _ _ => (0x8005, 0xF00F)
  | .shrVx _ _ => (0x8006, 0xF00F) | .subnVxVy _ _ => (0x8007, 0xF00F) | .shlVx _ _ => (0x800E, 0xF00F)
  | .ldINnn _ => (0xA000, 0xF000) | .jpV0Nnn _ => (0xB000, 0xF000) | .rndVxKk _ _ => (0xC000, 0xF000)
  | .drwVxVyN _ _ _ => (0xD000, 0xF000) | .skpVx _ => (0xE09E, 0xF0FF) | .sknpVx _ => (0xE0A1, 0xF0FF)
  | .ldVxDt _ => (0xF007, 0xF0FF) | .ldDtVx _ => (0xF015, 0xF0FF) | .ldStVx _ => (0xF018, 0xF0FF)
  | .ldVxK _ => (0xF00A, 0xF0FF) | .addIVx _ => (0xF01E, 0xF0FF) | .ldFVx _ => (0xF029, 0xF0FF)
  | .ldBVx _ => (0xF033, 0xF0FF) | .ldMemVx _ => (0xF055, 0xF0FF) | .ldVxMem _ => (0xF065, 0xF0FF)

/-- R65: a word is an instruction of a row exactly when `w & mask = match`; the rows are disjoint; a word that matches no
row is Unsupported. -/
def Obligations.DecodeFollowsOpcodeMap : Prop :=
  ∀ w : Word,
    (∀ i, decode w = .ok i → w &&& (opcodeRow i).2 = (opcodeRow i).1) ∧
    (∀ i, w &&& (opcodeRow i).2 = (opcodeRow i).1 → ∃ j, decode w = .ok j ∧ opcodeRow j = opcodeRow i) ∧
    ((∀ i, w &&& (opcodeRow i).2 ≠ (opcodeRow i).1) → decode w = .error (.unsupported w))

/-- 30_encoding.md section 3: the Unsupported words are exactly the four sets listed. -/
def Obligations.UnsupportedWordsExactly : Prop :=
  ∀ w : Word, decode w = .error (.unsupported w) ↔
    (w.toNat ≤ 0x0FFF ∧ w ≠ 0x00E0 ∧ w ≠ 0x00EE) ∨
    (w.toNat / 0x1000 = 0x8 ∧ w.toNat % 16 ∈ [0x8, 0x9, 0xA, 0xB, 0xC, 0xD, 0xF]) ∨
    (w.toNat / 0x1000 = 0xE ∧ w.toNat % 256 ∉ [0x9E, 0xA1]) ∨
    (w.toNat / 0x1000 = 0xF ∧ w.toNat % 256 ∉ [0x07, 0x0A, 0x15, 0x18, 0x1E, 0x29, 0x33, 0x55, 0x65])

/-- 30_encoding.md section 3: the canonical encodings are those with every ignored bit zero, and the machine executes the
others like them. -/
def Obligations.IgnoredBitsDoNotMatter : Prop :=
  (∀ (w : Word) (i : Instr), decode w = .ok i → (i.WellFormed ↔
    ((w.toNat / 0x1000 = 5 ∨ w.toNat / 0x1000 = 9 → w.toNat % 16 = 0) ∧
     (w.toNat / 0x1000 = 8 ∧ (w.toNat % 16 = 0x6 ∨ w.toNat % 16 = 0xE) → w.toNat / 16 % 16 = 0)))) ∧
  (∀ (x y lo : Nibble) (s : State),
    exec (.seVxVy x y lo) s = exec (.seVxVy x y 0) s ∧ exec (.sneVxVy x y lo) s = exec (.sneVxVy x y 0) s ∧
    exec (.shrVx x y) s = exec (.shrVx x 0) s ∧ exec (.shlVx x y) s = exec (.shlVx x 0) s)

/-- 95_test_vectors.md section 2.6: a few words, one family each. -/
def Obligations.SampleWordsDecode : Prop :=
  decode 0x10E0 = .ok (.jp 0x0E0) ∧ decode 0x5AB1 = .ok (.seVxVy 0xA 0xB 0x1) ∧ decode 0x8AB7 = .ok (.subnVxVy 0xA 0xB) ∧
  decode 0xAF12 = .ok (.ldINnn 0xF12) ∧ decode 0xDF12 = .ok (.drwVxVyN 0xF 0x1 0x2) ∧ decode 0xEAA1 = .ok (.sknpVx 0xA) ∧
  decode 0xFA33 = .ok (.ldBVx 0xA) ∧ decode 0xFA75 = .error (.unsupported 0xFA75)

/-! ### Control flow -/

/-- R80: RET. The popped value is used whole; on the states of a run it is a return address. -/
def Obligations.RetPops : Prop :=
  ReadExactlyFrom .ret 0x00EE ∧
  ∀ s : State,
    (s.sp.val = 0 → ∃ t, exec .ret s = .next t ∧ FaultTaken .stackUnderflow s t) ∧
    (∀ h : 0 < s.sp.val, ∃ t, exec .ret s = .next t ∧ t.sp.val = s.sp.val - 1 ∧
      t.pc = s.stk[s.sp.val - 1]'(by omega) ∧ t.stk = s.stk ∧ SameExcept [.pc, .stack] s t ∧
      (s.Inv → 0x0002 ≤ t.pc.toNat ∧ t.pc.toNat ≤ 0x1000) ∧ (t.fetch = none ↔ 0x0FFF ≤ t.pc.toNat))

/-- R81: JP nnn. R87: JP V0,nnn, not reduced. Which targets the next fetch faults at. -/
def Obligations.JumpsSetPc : Prop :=
  ∀ (nnn : Addr) (s : State),
    (ReadExactlyFrom (.jp nnn) (0x1#4 ++ nnn) ∧
      ∃ t, exec (.jp nnn) s = .next t ∧ t.pc.toNat = nnn.toNat ∧ SameExcept [.pc] s t ∧
        (t.fetch = none ↔ nnn.toNat = 0xFFF)) ∧
    (ReadExactlyFrom (.jpV0Nnn nnn) (0xB#4 ++ nnn) ∧
      ∃ t, exec (.jpV0Nnn nnn) s = .next t ∧ t.pc.toNat = nnn.toNat + (s.reg 0).toNat ∧ SameExcept [.pc] s t ∧
        (t.fetch = none ↔ 0xFFE < nnn.toNat + (s.reg 0).toNat))

/-- R82: CALL nnn. -/
def Obligations.CallPushes : Prop :=
  ∀ (nnn : Addr) (s : State), ReadExactlyFrom (.call nnn) (0x2#4 ++ nnn) ∧
    (s.sp.val = 16 → ∃ t, exec (.call nnn) s = .next t ∧ FaultTaken .stackOverflow s t) ∧
    (∀ h : s.sp.val < 16, ∃ t, exec (.call nnn) s = .next t ∧ t.sp.val = s.sp.val + 1 ∧ t.pc.toNat = nnn.toNat ∧
      t.stk[s.sp.val] = s.pc ∧ (∀ k (hk : k < 16), k ≠ s.sp.val → t.stk[k] = s.stk[k]) ∧
      SameExcept [.pc, .stack] s t)

/-- 40_control_flow.md section 2, the call and return law: a CALL's entry is kept by every instruction that leaves SP above
it, and the RET that meets it restores PC and SP. -/
def Obligations.CallThenReturn : Prop :=
  (∀ (i : Instr) (u t : State) (k : Fin 16), k.val < u.sp.val → exec i u = .next t → k.val < t.sp.val →
    t.stk[k] = u.stk[k]) ∧
  (∀ (nnn : Addr) (s : State) (h : s.sp.val < 16), ∃ t, exec (.call nnn) s = .next t ∧
    ∀ u : State, u.sp = t.sp → u.stk[s.sp.val] = t.stk[s.sp.val] →
      ∃ r, exec .ret u = .next r ∧ r.pc = s.pc ∧ r.sp = s.sp)

/-- R83, R84, R85, R86: the four register skips; in the last two whatever the ignored low nibble is. -/
def Obligations.RegisterSkips : Prop :=
  ∀ (x y lo : Nibble) (kk : Byte) (s : State),
    (ReadExactlyFrom (.seVxKk x kk) (0x3#4 ++ x ++ kk) ∧ ∃ t, exec (.seVxKk x kk) s = .next t ∧
      t.pc = (if s.reg x = kk then s.pc + 2 else s.pc) ∧ SameExcept [.pc] s t) ∧
    (ReadExactlyFrom (.sneVxKk x kk) (0x4#4 ++ x ++ kk) ∧ ∃ t, exec (.sneVxKk x kk) s = .next t ∧
      t.pc = (if s.reg x ≠ kk then s.pc + 2 else s.pc) ∧ SameExcept [.pc] s t) ∧
    (ReadExactlyFrom (.seVxVy x y lo) (0x5#4 ++ x ++ y ++ lo) ∧ ∃ t, exec (.seVxVy x y lo) s = .next t ∧
      t.pc = (if s.reg x = s.reg y then s.pc + 2 else s.pc) ∧ SameExcept [.pc] s t) ∧
    (ReadExactlyFrom (.sneVxVy x y lo) (0x9#4 ++ x ++ y ++ lo) ∧ ∃ t, exec (.sneVxVy x y lo) s = .next t ∧
      t.pc = (if s.reg x ≠ s.reg y then s.pc + 2 else s.pc) ∧ SameExcept [.pc] s t)

/-! ### Register loads, the ALU, the random instruction -/

/-- R101, R102, R103: LD Vx,kk; ADD Vx,kk; LD Vx,Vy. -/
def Obligations.LoadsAndAddImmediate : Prop :=
  ∀ (x y : Nibble) (kk : Byte) (s : State),
    (ReadExactlyFrom (.ldVxKk x kk) (0x6#4 ++ x ++ kk) ∧ ∃ t, exec (.ldVxKk x kk) s = .next t ∧
      t.reg x = kk ∧ SameRegsBut (· = x) s t ∧ SameExcept [.regs] s t) ∧
    (ReadExactlyFrom (.addVxKk x kk) (0x7#4 ++ x ++ kk) ∧ ∃ t, exec (.addVxKk x kk) s = .next t ∧
      (t.reg x).toNat = ((s.reg x).toNat + kk.toNat) % 256 ∧ SameRegsBut (· = x) s t ∧ SameExcept [.regs] s t) ∧
    (ReadExactlyFrom (.ldVxVy x y) (0x8#4 ++ x ++ y ++ 0x0#4) ∧ ∃ t, exec (.ldVxVy x y) s = .next t ∧
      t.reg x = s.reg y ∧ SameRegsBut (· = x) s t ∧ SameExcept [.regs] s t)

/-- R104, R105, R106: OR, AND, XOR, bit by bit; VF is written only when it is x. -/
def Obligations.LogicOperations : Prop :=
  ∀ (x y : Nibble) (s : State),
    (ReadExactlyFrom (.orVxVy x y) (0x8#4 ++ x ++ y ++ 0x1#4) ∧ ∃ t, exec (.orVxVy x y) s = .next t ∧
      (∀ k < 8, (t.reg x).getLsbD k = ((s.reg x).getLsbD k || (s.reg y).getLsbD k)) ∧
      SameRegsBut (· = x) s t ∧ SameExcept [.regs] s t) ∧
    (ReadExactlyFrom (.andVxVy x y) (0x8#4 ++ x ++ y ++ 0x2#4) ∧ ∃ t, exec (.andVxVy x y) s = .next t ∧
      (∀ k < 8, (t.reg x).getLsbD k = ((s.reg x).getLsbD k && (s.reg y).getLsbD k)) ∧
      SameRegsBut (· = x) s t ∧ SameExcept [.regs] s t) ∧
    (ReadExactlyFrom (.xorVxVy x y) (0x8#4 ++ x ++ y ++ 0x3#4) ∧ ∃ t, exec (.xorVxVy x y) s = .next t ∧
      (∀ k < 8, (t.reg x).getLsbD k = ((s.reg x).getLsbD k != (s.reg y).getLsbD k)) ∧
      SameRegsBut (· = x) s t ∧ SameExcept [.regs] s t)

/-- R107: ADD Vx,Vy. With x = 15 the sum replaces the carry. -/
def Obligations.AddSetsCarry : Prop :=
  ∀ (x y : Nibble) (s : State), ReadExactlyFrom (.addVxVy x y) (0x8#4 ++ x ++ y ++ 0x4#4) ∧
    ∃ t, exec (.addVxVy x y) s = .next t ∧
      (t.reg x).toNat = ((s.reg x).toNat + (s.reg y).toNat) % 256 ∧
      (x ≠ 15 → t.reg 15 = if (s.reg x).toNat + (s.reg y).toNat > 255 then 1 else 0) ∧
      SameRegsBut (fun r => r = x ∨ r = 15) s t ∧ SameExcept [.regs] s t

/-- R108: SUB Vx,Vy, strict flag. With x = 15 the difference replaces the flag. -/
def Obligations.SubSetsStrictFlag : Prop :=
  ∀ (x y : Nibble) (s : State), ReadExactlyFrom (.subVxVy x y) (0x8#4 ++ x ++ y ++ 0x5#4) ∧
    ∃ t, exec (.subVxVy x y) s = .next t ∧
      ((t.reg x).toNat : Int) = ((s.reg x).toNat - (s.reg y).toNat : Int) % 256 ∧
      (x ≠ 15 → t.reg 15 = if (s.reg x).toNat > (s.reg y).toNat then 1 else 0) ∧
      SameRegsBut (fun r => r = x ∨ r = 15) s t ∧ SameExcept [.regs] s t

/-- R109: SHR Vx, whatever the ignored nibble y is. -/
def Obligations.ShrHalves : Prop :=
  ∀ (x y : Nibble) (s : State), ReadExactlyFrom (.shrVx x y) (0x8#4 ++ x ++ y ++ 0x6#4) ∧
    ∃ t, exec (.shrVx x y) s = .next t ∧
      (t.reg x).toNat = (s.reg x).toNat / 2 ∧
      (x ≠ 15 → (t.reg 15).toNat = (s.reg x).toNat % 2) ∧
      SameRegsBut (fun r => r = x ∨ r = 15) s t ∧ SameExcept [.regs] s t

/-- R110: SUBN Vx,Vy, non-strict flag. With x = 15 the difference replaces the flag. -/
def Obligations.SubnSetsNonStrictFlag : Prop :=
  ∀ (x y : Nibble) (s : State), ReadExactlyFrom (.subnVxVy x y) (0x8#4 ++ x ++ y ++ 0x7#4) ∧
    ∃ t, exec (.subnVxVy x y) s = .next t ∧
      ((t.reg x).toNat : Int) = ((s.reg y).toNat - (s.reg x).toNat : Int) % 256 ∧
      (x ≠ 15 → t.reg 15 = if (s.reg y).toNat ≥ (s.reg x).toNat then 1 else 0) ∧
      SameRegsBut (fun r => r = x ∨ r = 15) s t ∧ SameExcept [.regs] s t

/-- R111: SHL Vx, whatever the ignored nibble y is. -/
def Obligations.ShlDoubles : Prop :=
  ∀ (x y : Nibble) (s : State), ReadExactlyFrom (.shlVx x y) (0x8#4 ++ x ++ y ++ 0xE#4) ∧
    ∃ t, exec (.shlVx x y) s = .next t ∧
      (t.reg x).toNat = (s.reg x).toNat * 2 % 256 ∧
      (x ≠ 15 → (t.reg 15).toNat = (s.reg x).toNat / 128) ∧
      SameRegsBut (fun r => r = x ∨ r = 15) s t ∧ SameExcept [.regs] s t

/-- R112: RND Vx,kk: the draw is the model's free value (log 5), and only bits set in kk can be set. -/
def Obligations.RndMasksFreeByte : Prop :=
  ∀ (x : Nibble) (kk : Byte) (s : State), ReadExactlyFrom (.rndVxKk x kk) (0xC#4 ++ x ++ kk) ∧
    ∃ t, exec (.rndVxKk x kk) s = .next t ∧
      t.reg x = Config.rndByte s.rndDraws &&& kk ∧ t.reg x &&& ~~~kk = 0 ∧ t.rndDraws = s.rndDraws + 1 ∧
      SameRegsBut (· = x) s t ∧ SameExcept [.regs, .draws] s t

/-! ### The index register and the memory instructions -/

/-- R120, R121, R122: LD I,nnn; ADD I,Vx; LD F,Vx. -/
def Obligations.IndexWrites : Prop :=
  ∀ (nnn : Addr) (x : Nibble) (s : State),
    (ReadExactlyFrom (.ldINnn nnn) (0xA#4 ++ nnn) ∧ ∃ t, exec (.ldINnn nnn) s = .next t ∧
      t.idx.toNat = nnn.toNat ∧ SameExcept [.idx] s t) ∧
    (ReadExactlyFrom (.addIVx x) (0xF#4 ++ x ++ 0x1E#8) ∧ ∃ t, exec (.addIVx x) s = .next t ∧
      t.idx.toNat = (s.idx.toNat + (s.reg x).toNat) % 4096 ∧ SameExcept [.idx] s t) ∧
    (ReadExactlyFrom (.ldFVx x) (0xF#4 ++ x ++ 0x29#8) ∧ ∃ t, exec (.ldFVx x) s = .next t ∧
      t.idx.toNat = (s.reg x).toNat * 5 ∧ SameExcept [.idx] s t)

/-- R123: LD B,Vx. -/
def Obligations.DecimalStore : Prop :=
  ∀ (x : Nibble) (s : State), ReadExactlyFrom (.ldBVx x) (0xF#4 ++ x ++ 0x33#8) ∧
    (0xFFF < s.idx.toNat + 2 → ∃ t, exec (.ldBVx x) s = .next t ∧ FaultTaken .memBounds s t) ∧
    (s.idx.toNat + 2 ≤ 0xFFF → ∃ t, exec (.ldBVx x) s = .next t ∧
      (t.mem.read s.idx.toNat).toNat = (s.reg x).toNat / 100 ∧
      (t.mem.read (s.idx.toNat + 1)).toNat = (s.reg x).toNat / 10 % 10 ∧
      (t.mem.read (s.idx.toNat + 2)).toNat = (s.reg x).toNat % 10 ∧
      (∀ a, a < s.idx.toNat ∨ s.idx.toNat + 2 < a → t.mem.read a = s.mem.read a) ∧
      SameExcept [.memory] s t)

/-- R124: LD [I],Vx. -/
def Obligations.BlockStore : Prop :=
  ∀ (x : Nibble) (s : State), ReadExactlyFrom (.ldMemVx x) (0xF#4 ++ x ++ 0x55#8) ∧
    (0xFFF < s.idx.toNat + x.toNat → ∃ t, exec (.ldMemVx x) s = .next t ∧ FaultTaken .memBounds s t) ∧
    (s.idx.toNat + x.toNat ≤ 0xFFF → ∃ t, exec (.ldMemVx x) s = .next t ∧
      (∀ r : Nibble, r.toNat ≤ x.toNat → t.mem.read (s.idx.toNat + r.toNat) = s.reg r) ∧
      (∀ a, a < s.idx.toNat ∨ s.idx.toNat + x.toNat < a → t.mem.read a = s.mem.read a) ∧
      SameExcept [.memory] s t)

/-- R125: LD Vx,[I]. -/
def Obligations.BlockLoad : Prop :=
  ∀ (x : Nibble) (s : State), ReadExactlyFrom (.ldVxMem x) (0xF#4 ++ x ++ 0x65#8) ∧
    (0xFFF < s.idx.toNat + x.toNat → ∃ t, exec (.ldVxMem x) s = .next t ∧ FaultTaken .memBounds s t) ∧
    (s.idx.toNat + x.toNat ≤ 0xFFF → ∃ t, exec (.ldVxMem x) s = .next t ∧
      (∀ r : Nibble, r.toNat ≤ x.toNat → t.reg r = s.mem.read (s.idx.toNat + r.toNat)) ∧
      SameRegsBut (fun r => r.toNat ≤ x.toNat) s t ∧ SameExcept [.regs] s t)

/-- 42_index_and_memory.md section 2, the block round-trip law: a block stored, the registers changed in any way, and the
block loaded again. -/
def Obligations.BlockRoundTrip : Prop :=
  ∀ (x : Nibble) (s : State), s.idx.toNat + x.toNat ≤ 0xFFF →
    ∃ t, exec (.ldMemVx x) s = .next t ∧
      ∀ u : State, u.idx = s.idx →
        (∀ a, s.idx.toNat ≤ a → a ≤ s.idx.toNat + x.toNat → u.mem.read a = t.mem.read a) →
        ∃ r, exec (.ldVxMem x) u = .next r ∧ ∀ k : Nibble, k.toNat ≤ x.toNat → r.reg k = s.reg k

/-- 20_memory.md section 7: a block stored at PC is what the next fetch reads, V0 the high byte. -/
def Obligations.StoreSeenByNextFetch : Prop :=
  ∀ (x : Nibble) (s : State), 1 ≤ x.toNat → s.idx = s.pc → s.idx.toNat + x.toNat ≤ 0xFFF →
    ∃ t, exec (.ldMemVx x) s = .next t ∧ t.fetch = some (s.reg 0 ++ s.reg 1)

/-- 20_memory.md section 2: the memory primitives and their bounds. -/
def Obligations.MemoryPrimitives : Prop :=
  (∀ (s : State) (a : Nat), s.readBlock a 1 = if a > 0xFFF then none else some [s.mem.read a]) ∧
  (∀ s : State, s.fetch = if s.pc.toNat + 1 > 0xFFF then none else
    some (s.mem.read s.pc.toNat ++ s.mem.read (s.pc.toNat + 1))) ∧
  (∀ (s : State) (a : Nat) (b : Byte),
    (a > 0xFFF → s.writeBlock a [b] = none) ∧
    (a ≤ 0xFFF → ∃ t, s.writeBlock a [b] = some t ∧ t.mem.read a = b ∧
      (∀ c, c ≠ a → t.mem.read c = s.mem.read c) ∧ SameExcept [.memory] s t))

/-! ### Display -/

/-- 43_display.md section 1: CLS; the fb_invalidate pulse is recorded by the model's own counter (log 11). -/
def Obligations.ClsClearsScreen : Prop :=
  ReadExactlyFrom .cls 0x00E0 ∧
  ∀ s : State, ∃ t, exec .cls s = .next t ∧ (∀ i < 2048, t.fbOut i = false) ∧
    t.invalidates = s.invalidates + 1 ∧ SameExcept [.screen, .pulses] s t

/-- 43_display.md section 1: DRW Vx,Vy,n: all n bytes fetched, the blit at the old Vx and Vy, the collision into VF; the
fb_invalidate pulse is recorded by the model's own counter (log 11). -/
def Obligations.DrwBlitsSprite : Prop :=
  ∀ (x y n : Nibble) (s : State), ReadExactlyFrom (.drwVxVyN x y n) (0xD#4 ++ x ++ y ++ n) ∧
    (0 < n.toNat ∧ 0xFFF < s.idx.toNat + n.toNat - 1 →
      ∃ t, exec (.drwVxVyN x y n) s = .next t ∧ FaultTaken .memBounds s t) ∧
    (n.toNat = 0 ∨ s.idx.toNat + n.toNat - 1 ≤ 0xFFF →
      ∃ t, exec (.drwVxVyN x y n) s = .next t ∧
        (∃ rows : List Byte, rows.length = n.toNat ∧
          (∀ r (h : r < rows.length), rows[r] = s.mem.read (s.idx.toNat + r)) ∧
          t.fb = (blit (s.reg x) (s.reg y) rows s.fb).1 ∧
          t.reg 15 = if (blit (s.reg x) (s.reg y) rows s.fb).2 then 1 else 0) ∧
        t.invalidates = s.invalidates + 1 ∧
        SameRegsBut (· = 15) s t ∧ SameExcept [.regs, .screen, .pulses] s t)

/-- R142, R143, R145: the blit pixel by pixel, and the collision. -/
def Obligations.BlitPixelByPixel : Prop :=
  ∀ (ox oy : Byte) (rows : List Byte) (f : Framebuffer),
    (∀ r (hr : r < rows.length) (j : Nat), j < 8 → oy.toNat + r ≤ 31 →
      (blit ox oy rows f).1.pixel ((ox.toNat + j) % 64) (oy.toNat + r) =
        (f.pixel ((ox.toNat + j) % 64) (oy.toNat + r) != rows[r].getLsbD (7 - j))) ∧
    (∀ x y, x < 64 → y < 32 →
      (∀ r j, r < rows.length → j < 8 → ¬ (x = (ox.toNat + j) % 64 ∧ y = oy.toNat + r)) →
      (blit ox oy rows f).1.pixel x y = f.pixel x y) ∧
    ((blit ox oy rows f).2 = true ↔
      ∃ (r : Nat) (hr : r < rows.length) (j : Nat), j < 8 ∧ oy.toNat + r ≤ 31 ∧
        rows[r].getLsbD (7 - j) = true ∧ f.pixel ((ox.toNat + j) % 64) (oy.toNat + r) = true)

/-- 43_display.md section 2, the laws of the blit: a second draw restores the screen, and collides exactly where a drawn
sprite bit met an off pixel at first; no collision on a clear screen; a sprite of zeros changes nothing. -/
def Obligations.BlitLaws : Prop :=
  (∀ (ox oy : Byte) (rows : List Byte) (f : Framebuffer),
    (blit ox oy rows (blit ox oy rows f).1).1 = f ∧
    ((blit ox oy rows (blit ox oy rows f).1).2 = true ↔
      ∃ (r : Nat) (hr : r < rows.length) (j : Nat), j < 8 ∧ oy.toNat + r ≤ 31 ∧
        rows[r].getLsbD (7 - j) = true ∧ f.pixel ((ox.toNat + j) % 64) (oy.toNat + r) = false)) ∧
  (∀ (ox oy : Byte) (rows : List Byte), (blit ox oy rows Framebuffer.clear).2 = false) ∧
  (∀ (ox oy : Byte) (n : Nat) (f : Framebuffer), blit ox oy (List.replicate n 0) f = (f, false))

/-- 10_state.md section 12: the outputs are functions of the state, and the two pixel lookups agree. -/
def Obligations.OutputsPresentState : Prop :=
  ∀ s : State,
    (∀ x y, x < 64 → y < 32 → s.fbOut (y * 64 + x) = s.fb.pixel x y) ∧
    (s.sndActive = true ↔ s.st ≠ 0) ∧ (s.halted = true ↔ s.run = .halt) ∧ s.faultInstr = s.ir ∧
    (s.faultCause = 0 ↔ s.cause = none) ∧ (s.faultCause = 1 ↔ s.cause = some .unsupportedOpcode) ∧
    (s.faultCause = 2 ↔ s.cause = some .stackUnderflow) ∧ (s.faultCause = 3 ↔ s.cause = some .stackOverflow) ∧
    (s.faultCause = 4 ↔ s.cause = some .memBounds)

/-! ### Keys and timers -/

/-- R160, R161: SKP and SKNP. `s.keyNow` is KeyIn() at this step, a free value. -/
def Obligations.KeySkips : Prop :=
  ∀ (x : Nibble) (s : State),
    (ReadExactlyFrom (.skpVx x) (0xE#4 ++ x ++ 0x9E#8) ∧ ∃ t, exec (.skpVx x) s = .next t ∧
      t.pc = (match s.keyNow with
        | some k => if (s.reg x).toNat = k.toNat then s.pc + 2 else s.pc
        | none => s.pc) ∧
      SameExcept [.pc, .keyReads] s t) ∧
    (ReadExactlyFrom (.sknpVx x) (0xE#4 ++ x ++ 0xA1#8) ∧ ∃ t, exec (.sknpVx x) s = .next t ∧
      t.pc = (match s.keyNow with
        | some k => if (s.reg x).toNat ≠ k.toNat then s.pc + 2 else s.pc
        | none => s.pc + 2) ∧
      SameExcept [.pc, .keyReads] s t)

/-- 44_timers_and_keys.md section 1, the key-skip law: on one state, which holds one key value, exactly one of the two
skips. -/
def Obligations.ExactlyOneKeySkipSkips : Prop :=
  ∀ (x : Nibble) (s : State), ∃ t u, exec (.skpVx x) s = .next t ∧ exec (.sknpVx x) s = .next u ∧
    (t.pc = s.pc + 2 ↔ u.pc = s.pc) ∧ (t.pc = s.pc ↔ u.pc = s.pc + 2) ∧ (t.pc = s.pc ∨ t.pc = s.pc + 2)

/-- R162, R163, R164: the timer instructions. -/
def Obligations.TimerAccess : Prop :=
  ∀ (x : Nibble) (s : State),
    (ReadExactlyFrom (.ldVxDt x) (0xF#4 ++ x ++ 0x07#8) ∧ ∃ t, exec (.ldVxDt x) s = .next t ∧
      t.reg x = s.dt ∧ SameRegsBut (· = x) s t ∧ SameExcept [.regs] s t) ∧
    (ReadExactlyFrom (.ldDtVx x) (0xF#4 ++ x ++ 0x15#8) ∧ ∃ t, exec (.ldDtVx x) s = .next t ∧
      t.dt = s.reg x ∧ SameExcept [.delay] s t) ∧
    (ReadExactlyFrom (.ldStVx x) (0xF#4 ++ x ++ 0x18#8) ∧ ∃ t, exec (.ldStVx x) s = .next t ∧
      t.st = s.reg x ∧ SameExcept [.sound] s t)

/-- R165: LD Vx,K takes a key held now and otherwise enters WAIT_KEY, IR and PC kept. `s.keyNow` is KeyIn() at this step,
a free value. -/
def Obligations.KeyWait : Prop :=
  ∀ (x : Nibble) (s : State), ReadExactlyFrom (.ldVxK x) (0xF#4 ++ x ++ 0x0A#8) ∧
    ∃ t, exec (.ldVxK x) s = .next t ∧
      match s.keyNow with
      | some k => (t.reg x).toNat = k.toNat ∧ SameRegsBut (· = x) s t ∧ SameExcept [.regs, .keyReads] s t
      | none => t.run = .waitKey ∧ SameExcept [.runState, .keyReads] s t

/-! ### Rules of the whole machine -/

/-- The registers an instruction may write (10_state.md R11). -/
def Sys2Proof.Machine.mayWrite (i : Instr) (r : Nibble) : Prop :=
  match i with
  | .ldVxKk x _ | .addVxKk x _ | .rndVxKk x _ | .ldVxVy x _ | .orVxVy x _ | .andVxVy x _ | .xorVxVy x _
  | .ldVxDt x | .ldVxK x => r = x
  | .addVxVy x _ | .subVxVy x _ | .shrVx x _ | .subnVxVy x _ | .shlVx x _ => r = x ∨ r = 15
  | .drwVxVyN _ _ _ => r = 15
  | .ldVxMem x => r.toNat ≤ x.toNat
  | _ => False

/-- 10_state.md sections 1 and 2: no instruction writes a register the table of writes does not give it; VF is written
implicitly by six instructions only. -/
def Obligations.RegistersWrittenOnlyAsListed : Prop :=
  ∀ (i : Instr) (s t : State) (r : Nibble), exec i s = .next t → ¬ mayWrite i r → t.reg r = s.reg r

/-- 10_state.md section 3: I is written by LD I, ADD I and LD F alone, and stays below 0x1000 if it was. -/
def Obligations.IndexWrittenByThree : Prop :=
  ∀ (i : Instr) (s t : State), exec i s = .next t →
    (t.idx = s.idx ∨ (∃ nnn, i = .ldINnn nnn) ∨ (∃ x, i = .addIVx x) ∨ (∃ x, i = .ldFVx x)) ∧
    (s.idx.toNat ≤ 0xFFF → t.idx.toNat ≤ 0xFFF)

/-- 20_memory.md section 5: no instruction but LD B and LD [I] changes a byte of memory, and those change none outside
I .. I+2 and I .. I+x. -/
def Obligations.MemoryWrittenByTwo : Prop :=
  ∀ (i : Instr) (s t : State) (a : Nat), exec i s = .next t → t.mem.read a ≠ s.mem.read a →
    a ≤ 0xFFF ∧ s.idx.toNat ≤ a ∧
      ((∃ x, i = .ldBVx x ∧ a ≤ s.idx.toNat + 2) ∨ (∃ x, i = .ldMemVx x ∧ a ≤ s.idx.toNat + x.toNat))

/-- 20_memory.md section 5, 10_state.md sections 5 and 6, 44_timers_and_keys.md section 2: an instruction that changes FB, the
stack, DT or ST is one of that piece's own instructions. 10_state.md section 12 (R31), 43_display.md section 2 (R147):
fb_invalidate pulses once at the end of every CLS and of every DRW that takes no fault, a DRW that changed no pixel included,
and never else; the pulse is recorded by the model's own counter (log 11). -/
def Obligations.SeparateSpacesChangedByOwnInstructions : Prop :=
  ∀ (i : Instr) (s t : State), s.live → exec i s = .next t →
    (t.fb ≠ s.fb → i = .cls ∨ ∃ x y n, i = .drwVxVyN x y n) ∧
    (t.invalidates = s.invalidates + 1 ↔ t.live ∧ (i = .cls ∨ ∃ x y n, i = .drwVxVyN x y n)) ∧
    (t.invalidates = s.invalidates ∨ t.invalidates = s.invalidates + 1) ∧
    (t.sp ≠ s.sp ∨ t.stk ≠ s.stk → i = .ret ∨ ∃ nnn, i = .call nnn) ∧
    (t.dt ≠ s.dt → ∃ x, i = .ldDtVx x) ∧ (t.st ≠ s.st → ∃ x, i = .ldStVx x)

/-- Where an instruction leaves PC when it takes no fault (10_state.md R16). -/
def Sys2Proof.Machine.pcAfter (i : Instr) (s : State) (p : Word) : Prop :=
  match i with
  | .jp nnn | .call nnn => p.toNat = nnn.toNat
  | .jpV0Nnn nnn => p.toNat = nnn.toNat + (s.reg 0).toNat
  | .ret => ∀ h : 0 < s.sp.val, p = s.stk[s.sp.val - 1]'(by omega)
  | .seVxKk _ _ | .sneVxKk _ _ | .seVxVy _ _ _ | .sneVxVy _ _ _ | .skpVx _ | .sknpVx _ => p = s.pc ∨ p = s.pc + 2
  | _ => p = s.pc

/-- 10_state.md section 4: how each instruction leaves PC. -/
def Obligations.ProgramCounterAfter : Prop :=
  ∀ (i : Instr) (s t : State), s.live → exec i s = .next t →
    (t.live → pcAfter i s t.pc) ∧ (¬ t.live → t.pc = s.pc)

/-- 10_state.md section 12, 20_memory.md section 6: an instruction reads the key slot at most once, RND alone draws a byte,
once, and none touches the order of turns. The counters are the model's own (log 3, 4, 5). -/
def Obligations.InputsSampledOnce : Prop :=
  ∀ (i : Instr) (s t : State), exec i s = .next t →
    t.keyReads = s.keyReads + (match i with | .skpVx _ | .sknpVx _ | .ldVxK _ => 1 | _ => 0) ∧
    t.rndDraws = s.rndDraws + (match i with | .rndVxKk _ _ => 1 | _ => 0) ∧
    t.turns = s.turns ∧ t.turnsTaken = s.turnsTaken

/-- The invariant of `State.Inv` is kept by every step, from every state that meets it. -/
def Obligations.StepKeepsInvariant : Prop :=
  ∀ s t : State, s.Inv → step s = .next t → t.Inv

/-- The invariant holds at reset, and after the launch with any FONT and any image that fits. -/
def Obligations.LaunchMeetsInvariant : Prop :=
  State.reset.Inv ∧
  ∀ (glyphs : Vector Byte 80) (image : List Byte) (t : State), launchWith glyphs image = .next t → t.Inv

/-- 70_reset_and_hazards.md section 4: a terminal state stays terminal; every engine step leaves V, I, PC, the stack, FB and
memory unchanged, and the timers can only fall. -/
def Obligations.TerminalStateIsFixed : Prop :=
  ∀ s : State, s.terminal → ∃ t, step s = .next t ∧ t.terminal ∧
    SameExcept [.ir, .delay, .sound, .turns] s t ∧ t.dt.toNat ≤ s.dt.toNat ∧ t.st.toNat ≤ s.st.toNat

/-- Two states that differ at most in the stack entries not in use. -/
def Sys2Proof.Machine.sameInUse (s t : State) : Prop :=
  t = { s with stk := t.stk } ∧ ∀ k : Fin 16, k.val < s.sp.val → t.stk[k] = s.stk[k]

/-- 10_state.md section 6: nothing can observe a stack entry at or above SP. -/
def Obligations.DeadStackEntriesUnobservable : Prop :=
  ∀ s t u : State, sameInUse s t → step s = .next u → ∃ v, step t = .next v ∧ sameInUse u v

/-- Every step from every state ends in a next state: the model neither faults nor refuses (log 1, 2). -/
def Obligations.StepAlwaysGivesNextState : Prop :=
  ∀ s : State, ∃ t, step s = .next t

/-- 70_reset_and_hazards.md section 2: a row's word placed for the next step is what the next step, the engine's, decodes, from every
state (log 20). -/
def Obligations.PlacedWordIsFetched : Prop :=
  ∀ (s : State) (w : Word), (s.withFetchWord 16 w.toNat).run = .run ∧
    (s.withFetchWord 16 w.toNat).turn = .engine ∧ (s.withFetchWord 16 w.toNat).fetch = some w ∧
    decodeTableWord 16 w.toNat = (match decode w with | .ok i => some i | .error _ => none)
end

