-- ==== Sys2Proof/Laws/Blit.lean ====
section
/-!
SUPPORT. The laws of the framebuffer and of the blit engine up to one sprite row: what one XOR does to every pixel, and what
one row does to every pixel and to the collision bit (43_display.md R142, R145).
-/

namespace Sys2Proof.Machine

/-- A framebuffer is its 2048 pixels (R19). -/
theorem Framebuffer.ext_pixel {f g : Framebuffer} (h : ∀ x y, x < 64 → y < 32 → f.pixel x y = g.pixel x y) : f = g := by
  refine Vector.ext fun y hy => BitVec.eq_of_getLsbD_eq fun x hx => ?_
  simpa [Framebuffer.pixel, hy] using h x y hx hy

/-- One XOR changes the one pixel, and no other (R142). -/
theorem Framebuffer.pixel_xorPixel (f : Framebuffer) (x y : Nat) (b : Bool) (hx : x < 64) (hy : y < 32) (x' y' : Nat) :
    (f.xorPixel x y b).pixel x' y' = if x' = x ∧ y' = y then f.pixel x y != b else f.pixel x' y' := by
  unfold Framebuffer.xorPixel
  rw [dif_pos hy]
  cases b
  · simp only [Bool.false_eq_true, if_false]
    split
    · rename_i h; rw [h.1, h.2]; simp
    · rfl
  · simp only [if_true]
    by_cases hy' : y' < 32
    · by_cases he : y' = y
      · subst he
        simp only [Framebuffer.pixel, hy', dite_true, Vector.getElem_set_self, BitVec.getLsbD_xor, BitVec.getLsbD_twoPow]
        by_cases hxx : x' = x
        · subst hxx; simp [hx]
        · simp [hxx, Ne.symm hxx]
      · have hne : y ≠ y' := fun h => he h.symm
        simp [Framebuffer.pixel, hy', he, hne]
    · simp only [Framebuffer.pixel, hy', dite_false]
      rw [if_neg (by omega)]

/-- No pixel of the clear framebuffer is on (R140). -/
@[simp] theorem Framebuffer.pixel_clear (x y : Nat) : Framebuffer.clear.pixel x y = false := by
  simp [Framebuffer.pixel, Framebuffer.clear]

/-- What a run of pixels of one row does, their columns being distinct. -/
theorem blitPixels_spec (ox : Byte) (ty : Nat) (row : Byte) (hy : ty < 32) (js : List Nat)
    (hd : js.Pairwise fun i j => (ox.toNat + i) % 64 ≠ (ox.toNat + j) % 64) (f : Framebuffer) (c : Bool) :
    (∀ j ∈ js, (js.foldl (blitPixel ox ty row) (f, c)).1.pixel ((ox.toNat + j) % 64) ty =
      (f.pixel ((ox.toNat + j) % 64) ty != spriteBit row j)) ∧
    (∀ x y, (∀ j ∈ js, ¬ (x = (ox.toNat + j) % 64 ∧ y = ty)) →
      (js.foldl (blitPixel ox ty row) (f, c)).1.pixel x y = f.pixel x y) ∧
    ((js.foldl (blitPixel ox ty row) (f, c)).2 = true ↔
      c = true ∨ ∃ j ∈ js, spriteBit row j = true ∧ f.pixel ((ox.toNat + j) % 64) ty = true) := by
  induction js generalizing f c with
  | nil => simp
  | cons k ks ih =>
    obtain ⟨hk, hks⟩ := List.pairwise_cons.1 hd
    have hm : (ox.toNat + k) % 64 < 64 := Nat.mod_lt _ (by decide)
    obtain ⟨h1, h2, h3⟩ := ih hks (f.xorPixel ((ox.toNat + k) % 64) ty (spriteBit row k))
      (c || (spriteBit row k && f.pixel ((ox.toNat + k) % 64) ty))
    have hp : ∀ j ∈ ks, (f.xorPixel ((ox.toNat + k) % 64) ty (spriteBit row k)).pixel ((ox.toNat + j) % 64) ty =
        f.pixel ((ox.toNat + j) % 64) ty := fun j hj => by
      rw [Framebuffer.pixel_xorPixel _ _ _ _ hm hy, if_neg fun h => hk j hj h.1.symm]
    simp only [List.foldl_cons]
    refine ⟨?_, ?_, ?_⟩
    · intro j hj
      rcases List.mem_cons.1 hj with rfl | hj
      · refine (h2 _ _ fun i hi h => hk i hi h.1).trans ?_
        rw [Framebuffer.pixel_xorPixel _ _ _ _ hm hy, if_pos ⟨rfl, rfl⟩]
      · exact (h1 j hj).trans (by rw [hp j hj])
    · intro x y h
      refine (h2 x y fun j hj => h j (List.mem_cons_of_mem _ hj)).trans ?_
      rw [Framebuffer.pixel_xorPixel _ _ _ _ hm hy, if_neg (h k List.mem_cons_self)]
    · refine h3.trans ?_
      simp only [Bool.or_eq_true, Bool.and_eq_true, List.mem_cons, exists_eq_or_imp]
      constructor
      · rintro ((h | h) | ⟨j, hj, h, h'⟩)
        · exact .inl h
        · exact .inr (.inl h)
        · exact .inr (.inr ⟨j, hj, h, (hp j hj).symm.trans h'⟩)
      · rintro (h | h | ⟨j, hj, h, h'⟩)
        · exact .inl (.inl h)
        · exact .inl (.inr h)
        · exact .inr ⟨j, hj, h, (hp j hj).trans h'⟩

/-- What one sprite row does to the screen and to the collision bit (R142, R144, R145). -/
theorem blitRow_spec (ox : Byte) (ty : Nat) (row : Byte) (hy : ty < 32) (f : Framebuffer) (c : Bool) :
    (∀ j < 8, (blitRow ox ty row (f, c)).1.pixel ((ox.toNat + j) % 64) ty =
      (f.pixel ((ox.toNat + j) % 64) ty != spriteBit row j)) ∧
    (∀ x y, (∀ j < 8, ¬ (x = (ox.toNat + j) % 64 ∧ y = ty)) → (blitRow ox ty row (f, c)).1.pixel x y = f.pixel x y) ∧
    ((blitRow ox ty row (f, c)).2 = true ↔
      c = true ∨ ∃ j < 8, spriteBit row j = true ∧ f.pixel ((ox.toNat + j) % 64) ty = true) := by
  have hmem : ∀ j, j ∈ [0, 1, 2, 3, 4, 5, 6, 7] ↔ j < 8 := by intro j; simp; omega
  have hd : [0, 1, 2, 3, 4, 5, 6, 7].Pairwise fun i j => (ox.toNat + i) % 64 ≠ (ox.toNat + j) % 64 := by
    simp only [List.pairwise_cons, List.mem_cons, List.not_mem_nil, or_false, forall_eq_or_imp, forall_eq]
    refine ⟨?_, ?_, ?_, ?_, ?_, ?_, ?_, ?_, List.Pairwise.nil⟩ <;> (try refine ⟨?_, ?_⟩) <;> first | omega | simp
  have h := blitPixels_spec ox ty row hy [0, 1, 2, 3, 4, 5, 6, 7] hd f c
  simp only [hmem] at h
  exact h

end Sys2Proof.Machine
end

