-- ==== Sys2Proof/Laws/Decode.lean ====
section
/-!
SUPPORT. The fields of a word as numbers, a word built from fields as a number, and the fields of a built word.
-/

namespace Sys2Proof

/-- Concatenation as a number. -/
theorem toNat_append_add {m n : Nat} (a : BitVec m) (b : BitVec n) : (a ++ b).toNat = a.toNat * 2 ^ n + b.toNat := by
  rw [BitVec.toNat_append, ← Nat.shiftLeft_add_eq_or_of_lt b.isLt, Nat.shiftLeft_eq]

theorem toNat_bigEndian (hi lo : Byte) : (bigEndian hi lo).toNat = hi.toNat * 256 + lo.toNat :=
  toNat_append_add hi lo

theorem toNat_wordOf (op x y n : Nibble) :
    (wordOf op x y n).toNat = op.toNat * 4096 + x.toNat * 256 + y.toNat * 16 + n.toNat := by
  refine (toNat_append_add (op ++ x ++ y) n).trans ?_
  rw [toNat_append_add (op ++ x) y, toNat_append_add op x]
  omega

theorem toNat_wordXkk (op x : Nibble) (kk : Byte) :
    (wordXkk op x kk).toNat = op.toNat * 4096 + x.toNat * 256 + kk.toNat := by
  refine (toNat_append_add (op ++ x) kk).trans ?_
  rw [toNat_append_add op x]
  omega

theorem toNat_wordNnn (op : Nibble) (nnn : Addr) : (wordNnn op nnn).toNat = op.toNat * 4096 + nnn.toNat :=
  toNat_append_add op nnn

theorem toNat_fieldOp (w : Word) : (fieldOp w).toNat = w.toNat / 4096 := by
  rw [fieldOp, BitVec.extractLsb'_toNat, Nat.shiftRight_eq_div_pow]
  omega

theorem toNat_fieldX (w : Word) : (fieldX w).toNat = w.toNat / 256 % 16 := by
  rw [fieldX, BitVec.extractLsb'_toNat, Nat.shiftRight_eq_div_pow]

theorem toNat_fieldY (w : Word) : (fieldY w).toNat = w.toNat / 16 % 16 := by
  rw [fieldY, BitVec.extractLsb'_toNat, Nat.shiftRight_eq_div_pow]

theorem toNat_fieldN (w : Word) : (fieldN w).toNat = w.toNat % 16 := by
  rw [fieldN, BitVec.extractLsb'_toNat, Nat.shiftRight_eq_div_pow]
  omega

theorem toNat_fieldKk (w : Word) : (fieldKk w).toNat = w.toNat % 256 := by
  rw [fieldKk, BitVec.extractLsb'_toNat, Nat.shiftRight_eq_div_pow]
  omega

theorem toNat_fieldNnn (w : Word) : (fieldNnn w).toNat = w.toNat % 4096 := by
  rw [fieldNnn, BitVec.extractLsb'_toNat, Nat.shiftRight_eq_div_pow]
  omega

/-- A word is its four nibbles. -/
theorem wordOf_fields (w : Word) : wordOf (fieldOp w) (fieldX w) (fieldY w) (fieldN w) = w := by
  apply BitVec.eq_of_toNat_eq
  rw [toNat_wordOf, toNat_fieldOp, toNat_fieldX, toNat_fieldY, toNat_fieldN]
  omega

/-- A word is its op, x and low byte. -/
theorem wordXkk_fields (w : Word) : wordXkk (fieldOp w) (fieldX w) (fieldKk w) = w := by
  apply BitVec.eq_of_toNat_eq
  rw [toNat_wordXkk, toNat_fieldOp, toNat_fieldX, toNat_fieldKk]
  omega

/-- A word is its op and address. -/
theorem wordNnn_fields (w : Word) : wordNnn (fieldOp w) (fieldNnn w) = w := by
  apply BitVec.eq_of_toNat_eq
  rw [toNat_wordNnn, toNat_fieldOp, toNat_fieldNnn]
  omega

@[simp] theorem fieldOp_wordOf (op x y n : Nibble) : fieldOp (wordOf op x y n) = op := by
  apply BitVec.eq_of_toNat_eq
  rw [toNat_fieldOp, toNat_wordOf]
  omega

@[simp] theorem fieldX_wordOf (op x y n : Nibble) : fieldX (wordOf op x y n) = x := by
  apply BitVec.eq_of_toNat_eq
  rw [toNat_fieldX, toNat_wordOf]
  omega

@[simp] theorem fieldY_wordOf (op x y n : Nibble) : fieldY (wordOf op x y n) = y := by
  apply BitVec.eq_of_toNat_eq
  rw [toNat_fieldY, toNat_wordOf]
  omega

@[simp] theorem fieldN_wordOf (op x y n : Nibble) : fieldN (wordOf op x y n) = n := by
  apply BitVec.eq_of_toNat_eq
  rw [toNat_fieldN, toNat_wordOf]
  omega

@[simp] theorem fieldOp_wordXkk (op x : Nibble) (kk : Byte) : fieldOp (wordXkk op x kk) = op := by
  apply BitVec.eq_of_toNat_eq
  rw [toNat_fieldOp, toNat_wordXkk]
  omega

@[simp] theorem fieldX_wordXkk (op x : Nibble) (kk : Byte) : fieldX (wordXkk op x kk) = x := by
  apply BitVec.eq_of_toNat_eq
  rw [toNat_fieldX, toNat_wordXkk]
  omega

@[simp] theorem fieldKk_wordXkk (op x : Nibble) (kk : Byte) : fieldKk (wordXkk op x kk) = kk := by
  apply BitVec.eq_of_toNat_eq
  rw [toNat_fieldKk, toNat_wordXkk]
  omega

@[simp] theorem fieldOp_wordNnn (op : Nibble) (nnn : Addr) : fieldOp (wordNnn op nnn) = op := by
  apply BitVec.eq_of_toNat_eq
  rw [toNat_fieldOp, toNat_wordNnn]
  omega

@[simp] theorem fieldNnn_wordNnn (op : Nibble) (nnn : Addr) : fieldNnn (wordNnn op nnn) = nnn := by
  apply BitVec.eq_of_toNat_eq
  rw [toNat_fieldNnn, toNat_wordNnn]
  omega

/-- The two bytes of a word, put together again. -/
@[simp] theorem bigEndian_bytes (w : Word) : bigEndian (w.extractLsb' 8 8) (w.extractLsb' 0 8) = w := by
  apply BitVec.eq_of_toNat_eq
  rw [toNat_bigEndian]
  simp only [BitVec.extractLsb'_toNat, Nat.shiftRight_eq_div_pow]
  omega

end Sys2Proof
end

