-- ==== Sys2Proof/Laws/Memory.lean ====
section
/-!
SUPPORT. The laws of memory: a read after a write, and that every memory operation keeps the canonical form.
-/

namespace Sys2Proof.Machine

theorem Memory.read_insert (m : Memory) (a c : Nat) (v : Byte) :
    (Memory.insert a v m).read c = if c = a then v else m.read c := by
  induction m with
  | nil => simp only [Memory.insert, Memory.read]
  | cons p rest ih =>
    obtain ⟨b, u⟩ := p
    simp only [Memory.insert]
    split
    · simp only [Memory.read]
    · split
      · subst_vars; simp only [Memory.read]; split <;> rfl
      · simp only [Memory.read, ih]
        split
        · rw [if_neg (by omega)]
        · rfl

theorem Memory.read_erase (m : Memory) (a c : Nat) :
    (Memory.erase a m).read c = if c = a then Memory.unlisted a else m.read c := by
  induction m with
  | nil => simp only [Memory.erase, Memory.read]; split <;> simp_all
  | cons p rest ih =>
    obtain ⟨b, u⟩ := p
    simp only [Memory.erase]
    split
    · rw [ih]
      split
      · rfl
      · simp only [Memory.read]; rw [if_neg (by omega)]
    · simp only [Memory.read, ih]
      split
      · rw [if_neg (by omega)]
      · rfl

/-- A read after a write gives the byte written at that address and the old byte anywhere else (R50). -/
theorem Memory.read_write (m : Memory) (a c : Nat) (v : Byte) :
    (m.write a v).read c = if c = a then v else m.read c := by
  unfold Memory.write
  split
  · subst_vars; exact Memory.read_erase m a c
  · exact Memory.read_insert m a c v

theorem Memory.mem_insert {m : Memory} {a : Nat} {v : Byte} {c : Host.Cell} (h : c ∈ Memory.insert a v m) :
    c = (a, v) ∨ c ∈ m := by
  induction m with
  | nil => simpa [Memory.insert] using h
  | cons p rest ih =>
    obtain ⟨b, u⟩ := p
    simp only [Memory.insert] at h
    split at h
    · simpa using h
    · split at h
      · simp at h ⊢; tauto
      · simp at h ⊢
        rcases h with h | h
        · tauto
        · rcases ih h with h | h <;> simp_all

theorem Memory.mem_erase {m : Memory} {a : Nat} {c : Host.Cell} (h : c ∈ Memory.erase a m) : c ∈ m := by
  induction m with
  | nil => simp [Memory.erase] at h
  | cons p rest ih =>
    obtain ⟨b, u⟩ := p
    simp only [Memory.erase] at h
    split at h
    · simp [ih h]
    · simp at h ⊢
      rcases h with h | h
      · exact .inl h
      · exact .inr (ih h)

theorem Memory.insert_wf {m : Memory} {a : Nat} {v : Byte} (hm : m.wf) (ha : a ≤ 0xFFF) (hv : v ≠ Memory.unlisted a) :
    (Memory.insert a v m).wf := by
  obtain ⟨hs, hc⟩ := hm
  refine ⟨?_, fun c h => ?_⟩
  · clear hc
    induction m with
    | nil => simp [Memory.insert]
    | cons p rest ih =>
      obtain ⟨b, u⟩ := p
      obtain ⟨hb, hr⟩ := List.pairwise_cons.1 hs
      simp only [Memory.insert]
      split
      · refine List.pairwise_cons.2 ⟨fun c hcm => ?_, hs⟩
        rcases List.mem_cons.1 hcm with rfl | hcm
        · assumption
        · exact Nat.lt_trans ‹a < b› (hb c hcm)
      · split
        · subst_vars; exact List.pairwise_cons.2 ⟨hb, hr⟩
        · refine List.pairwise_cons.2 ⟨fun c hcm => ?_, ih hr⟩
          rcases Memory.mem_insert hcm with rfl | hcm
          · show b < a; omega
          · exact hb c hcm
  · rcases Memory.mem_insert h with rfl | h
    · exact ⟨ha, hv⟩
    · exact hc c h

theorem Memory.erase_wf {m : Memory} {a : Nat} (hm : m.wf) : (Memory.erase a m).wf := by
  obtain ⟨hs, hc⟩ := hm
  refine ⟨?_, fun c h => hc c (Memory.mem_erase h)⟩
  clear hc
  induction m with
  | nil => simp [Memory.erase]
  | cons p rest ih =>
    obtain ⟨b, u⟩ := p
    obtain ⟨hb, hr⟩ := List.pairwise_cons.1 hs
    simp only [Memory.erase]
    split
    · exact ih hr
    · exact List.pairwise_cons.2 ⟨fun c hcm => hb c (Memory.mem_erase hcm), ih hr⟩

/-- A write inside memory keeps the canonical form. -/
theorem Memory.write_wf {m : Memory} {a : Nat} (v : Byte) (hm : m.wf) (ha : a ≤ 0xFFF) : (m.write a v).wf := by
  unfold Memory.write
  split
  · exact Memory.erase_wf hm
  · exact Memory.insert_wf hm ha ‹_›

/-- A block write inside memory keeps the canonical form. -/
theorem Memory.writeList_wf {m : Memory} {a : Nat} (bytes : List Byte) (hm : m.wf) (ha : inMemory a bytes.length) :
    (m.writeList a bytes).wf := by
  induction bytes generalizing m a with
  | nil => exact hm
  | cons b bs ih =>
    have hl : a + bs.length ≤ 0xFFF := by simp only [inMemory, List.length_cons] at ha; omega
    refine ih (Memory.write_wf b hm (by omega)) ?_
    simp only [inMemory]; omega

/-- What a block write does: byte k of the block stands at `a + k`, and every other address reads as before. -/
theorem Memory.read_writeList (m : Memory) (a : Nat) (bytes : List Byte) (c : Nat) :
    (m.writeList a bytes).read c =
      if h : a ≤ c ∧ c - a < bytes.length then bytes[c - a]'h.2 else m.read c := by
  induction bytes generalizing m a with
  | nil => simp [Memory.writeList]
  | cons b bs ih =>
    rw [Memory.writeList, ih, Memory.read_write m a c b]
    by_cases hca : c = a
    · subst hca; simp
    · by_cases hin : a + 1 ≤ c ∧ c - (a + 1) < bs.length
      · have hk : c - a = (c - (a + 1)) + 1 := by omega
        rw [dif_pos hin, dif_pos ⟨by omega, by simp only [List.length_cons]; omega⟩]
        simp only [hk, List.getElem_cons_succ]
      · rw [dif_neg hin, dif_neg (by simp only [List.length_cons]; omega), if_neg hca]

end Sys2Proof.Machine
end

