-- ==== Sys2Proof/Laws/State.lean ====
section
/-!
SUPPORT. One lemma per field per update, and what a register reads as after each.
-/

namespace Sys2Proof.Machine

variable (s : State)

/-! `State.setReg`. -/

@[simp] theorem State.setReg_v (x : Nibble) (b : Byte) : (s.setReg x b).v = s.v.set x.toNat b x.isLt := rfl
@[simp] theorem State.setReg_idx (x : Nibble) (b : Byte) : (s.setReg x b).idx = s.idx := rfl
@[simp] theorem State.setReg_pc (x : Nibble) (b : Byte) : (s.setReg x b).pc = s.pc := rfl
@[simp] theorem State.setReg_dt (x : Nibble) (b : Byte) : (s.setReg x b).dt = s.dt := rfl
@[simp] theorem State.setReg_st (x : Nibble) (b : Byte) : (s.setReg x b).st = s.st := rfl
@[simp] theorem State.setReg_stk (x : Nibble) (b : Byte) : (s.setReg x b).stk = s.stk := rfl
@[simp] theorem State.setReg_sp (x : Nibble) (b : Byte) : (s.setReg x b).sp = s.sp := rfl
@[simp] theorem State.setReg_fb (x : Nibble) (b : Byte) : (s.setReg x b).fb = s.fb := rfl
@[simp] theorem State.setReg_mem (x : Nibble) (b : Byte) : (s.setReg x b).mem = s.mem := rfl
@[simp] theorem State.setReg_run (x : Nibble) (b : Byte) : (s.setReg x b).run = s.run := rfl
@[simp] theorem State.setReg_ir (x : Nibble) (b : Byte) : (s.setReg x b).ir = s.ir := rfl
@[simp] theorem State.setReg_cause (x : Nibble) (b : Byte) : (s.setReg x b).cause = s.cause := rfl
@[simp] theorem State.setReg_rndDraws (x : Nibble) (b : Byte) : (s.setReg x b).rndDraws = s.rndDraws := rfl
@[simp] theorem State.setReg_keyReads (x : Nibble) (b : Byte) : (s.setReg x b).keyReads = s.keyReads := rfl
@[simp] theorem State.setReg_turns (x : Nibble) (b : Byte) : (s.setReg x b).turns = s.turns := rfl
@[simp] theorem State.setReg_turnsTaken (x : Nibble) (b : Byte) : (s.setReg x b).turnsTaken = s.turnsTaken := rfl
@[simp] theorem State.setReg_invalidates (x : Nibble) (b : Byte) : (s.setReg x b).invalidates = s.invalidates := rfl

/-! `State.setIdx`. -/

@[simp] theorem State.setIdx_v (w : Word) : (s.setIdx w).v = s.v := rfl
@[simp] theorem State.setIdx_idx (w : Word) : (s.setIdx w).idx = w := rfl
@[simp] theorem State.setIdx_pc (w : Word) : (s.setIdx w).pc = s.pc := rfl
@[simp] theorem State.setIdx_dt (w : Word) : (s.setIdx w).dt = s.dt := rfl
@[simp] theorem State.setIdx_st (w : Word) : (s.setIdx w).st = s.st := rfl
@[simp] theorem State.setIdx_stk (w : Word) : (s.setIdx w).stk = s.stk := rfl
@[simp] theorem State.setIdx_sp (w : Word) : (s.setIdx w).sp = s.sp := rfl
@[simp] theorem State.setIdx_fb (w : Word) : (s.setIdx w).fb = s.fb := rfl
@[simp] theorem State.setIdx_mem (w : Word) : (s.setIdx w).mem = s.mem := rfl
@[simp] theorem State.setIdx_run (w : Word) : (s.setIdx w).run = s.run := rfl
@[simp] theorem State.setIdx_ir (w : Word) : (s.setIdx w).ir = s.ir := rfl
@[simp] theorem State.setIdx_cause (w : Word) : (s.setIdx w).cause = s.cause := rfl
@[simp] theorem State.setIdx_rndDraws (w : Word) : (s.setIdx w).rndDraws = s.rndDraws := rfl
@[simp] theorem State.setIdx_keyReads (w : Word) : (s.setIdx w).keyReads = s.keyReads := rfl
@[simp] theorem State.setIdx_turns (w : Word) : (s.setIdx w).turns = s.turns := rfl
@[simp] theorem State.setIdx_turnsTaken (w : Word) : (s.setIdx w).turnsTaken = s.turnsTaken := rfl
@[simp] theorem State.setIdx_invalidates (w : Word) : (s.setIdx w).invalidates = s.invalidates := rfl
@[simp] theorem State.setIdx_reg (w : Word) (y : Nibble) : (s.setIdx w).reg y = s.reg y := rfl

/-! `State.setPc`. -/

@[simp] theorem State.setPc_v (w : Word) : (s.setPc w).v = s.v := rfl
@[simp] theorem State.setPc_idx (w : Word) : (s.setPc w).idx = s.idx := rfl
@[simp] theorem State.setPc_pc (w : Word) : (s.setPc w).pc = w := rfl
@[simp] theorem State.setPc_dt (w : Word) : (s.setPc w).dt = s.dt := rfl
@[simp] theorem State.setPc_st (w : Word) : (s.setPc w).st = s.st := rfl
@[simp] theorem State.setPc_stk (w : Word) : (s.setPc w).stk = s.stk := rfl
@[simp] theorem State.setPc_sp (w : Word) : (s.setPc w).sp = s.sp := rfl
@[simp] theorem State.setPc_fb (w : Word) : (s.setPc w).fb = s.fb := rfl
@[simp] theorem State.setPc_mem (w : Word) : (s.setPc w).mem = s.mem := rfl
@[simp] theorem State.setPc_run (w : Word) : (s.setPc w).run = s.run := rfl
@[simp] theorem State.setPc_ir (w : Word) : (s.setPc w).ir = s.ir := rfl
@[simp] theorem State.setPc_cause (w : Word) : (s.setPc w).cause = s.cause := rfl
@[simp] theorem State.setPc_rndDraws (w : Word) : (s.setPc w).rndDraws = s.rndDraws := rfl
@[simp] theorem State.setPc_keyReads (w : Word) : (s.setPc w).keyReads = s.keyReads := rfl
@[simp] theorem State.setPc_turns (w : Word) : (s.setPc w).turns = s.turns := rfl
@[simp] theorem State.setPc_turnsTaken (w : Word) : (s.setPc w).turnsTaken = s.turnsTaken := rfl
@[simp] theorem State.setPc_invalidates (w : Word) : (s.setPc w).invalidates = s.invalidates := rfl
@[simp] theorem State.setPc_reg (w : Word) (y : Nibble) : (s.setPc w).reg y = s.reg y := rfl

/-! `State.setDt`. -/

@[simp] theorem State.setDt_v (b : Byte) : (s.setDt b).v = s.v := rfl
@[simp] theorem State.setDt_idx (b : Byte) : (s.setDt b).idx = s.idx := rfl
@[simp] theorem State.setDt_pc (b : Byte) : (s.setDt b).pc = s.pc := rfl
@[simp] theorem State.setDt_dt (b : Byte) : (s.setDt b).dt = b := rfl
@[simp] theorem State.setDt_st (b : Byte) : (s.setDt b).st = s.st := rfl
@[simp] theorem State.setDt_stk (b : Byte) : (s.setDt b).stk = s.stk := rfl
@[simp] theorem State.setDt_sp (b : Byte) : (s.setDt b).sp = s.sp := rfl
@[simp] theorem State.setDt_fb (b : Byte) : (s.setDt b).fb = s.fb := rfl
@[simp] theorem State.setDt_mem (b : Byte) : (s.setDt b).mem = s.mem := rfl
@[simp] theorem State.setDt_run (b : Byte) : (s.setDt b).run = s.run := rfl
@[simp] theorem State.setDt_ir (b : Byte) : (s.setDt b).ir = s.ir := rfl
@[simp] theorem State.setDt_cause (b : Byte) : (s.setDt b).cause = s.cause := rfl
@[simp] theorem State.setDt_rndDraws (b : Byte) : (s.setDt b).rndDraws = s.rndDraws := rfl
@[simp] theorem State.setDt_keyReads (b : Byte) : (s.setDt b).keyReads = s.keyReads := rfl
@[simp] theorem State.setDt_turns (b : Byte) : (s.setDt b).turns = s.turns := rfl
@[simp] theorem State.setDt_turnsTaken (b : Byte) : (s.setDt b).turnsTaken = s.turnsTaken := rfl
@[simp] theorem State.setDt_invalidates (b : Byte) : (s.setDt b).invalidates = s.invalidates := rfl
@[simp] theorem State.setDt_reg (b : Byte) (y : Nibble) : (s.setDt b).reg y = s.reg y := rfl

/-! `State.setSt`. -/

@[simp] theorem State.setSt_v (b : Byte) : (s.setSt b).v = s.v := rfl
@[simp] theorem State.setSt_idx (b : Byte) : (s.setSt b).idx = s.idx := rfl
@[simp] theorem State.setSt_pc (b : Byte) : (s.setSt b).pc = s.pc := rfl
@[simp] theorem State.setSt_dt (b : Byte) : (s.setSt b).dt = s.dt := rfl
@[simp] theorem State.setSt_st (b : Byte) : (s.setSt b).st = b := rfl
@[simp] theorem State.setSt_stk (b : Byte) : (s.setSt b).stk = s.stk := rfl
@[simp] theorem State.setSt_sp (b : Byte) : (s.setSt b).sp = s.sp := rfl
@[simp] theorem State.setSt_fb (b : Byte) : (s.setSt b).fb = s.fb := rfl
@[simp] theorem State.setSt_mem (b : Byte) : (s.setSt b).mem = s.mem := rfl
@[simp] theorem State.setSt_run (b : Byte) : (s.setSt b).run = s.run := rfl
@[simp] theorem State.setSt_ir (b : Byte) : (s.setSt b).ir = s.ir := rfl
@[simp] theorem State.setSt_cause (b : Byte) : (s.setSt b).cause = s.cause := rfl
@[simp] theorem State.setSt_rndDraws (b : Byte) : (s.setSt b).rndDraws = s.rndDraws := rfl
@[simp] theorem State.setSt_keyReads (b : Byte) : (s.setSt b).keyReads = s.keyReads := rfl
@[simp] theorem State.setSt_turns (b : Byte) : (s.setSt b).turns = s.turns := rfl
@[simp] theorem State.setSt_turnsTaken (b : Byte) : (s.setSt b).turnsTaken = s.turnsTaken := rfl
@[simp] theorem State.setSt_invalidates (b : Byte) : (s.setSt b).invalidates = s.invalidates := rfl
@[simp] theorem State.setSt_reg (b : Byte) (y : Nibble) : (s.setSt b).reg y = s.reg y := rfl

/-! `State.setIr`. -/

@[simp] theorem State.setIr_v (w : Word) : (s.setIr w).v = s.v := rfl
@[simp] theorem State.setIr_idx (w : Word) : (s.setIr w).idx = s.idx := rfl
@[simp] theorem State.setIr_pc (w : Word) : (s.setIr w).pc = s.pc := rfl
@[simp] theorem State.setIr_dt (w : Word) : (s.setIr w).dt = s.dt := rfl
@[simp] theorem State.setIr_st (w : Word) : (s.setIr w).st = s.st := rfl
@[simp] theorem State.setIr_stk (w : Word) : (s.setIr w).stk = s.stk := rfl
@[simp] theorem State.setIr_sp (w : Word) : (s.setIr w).sp = s.sp := rfl
@[simp] theorem State.setIr_fb (w : Word) : (s.setIr w).fb = s.fb := rfl
@[simp] theorem State.setIr_mem (w : Word) : (s.setIr w).mem = s.mem := rfl
@[simp] theorem State.setIr_run (w : Word) : (s.setIr w).run = s.run := rfl
@[simp] theorem State.setIr_ir (w : Word) : (s.setIr w).ir = w := rfl
@[simp] theorem State.setIr_cause (w : Word) : (s.setIr w).cause = s.cause := rfl
@[simp] theorem State.setIr_rndDraws (w : Word) : (s.setIr w).rndDraws = s.rndDraws := rfl
@[simp] theorem State.setIr_keyReads (w : Word) : (s.setIr w).keyReads = s.keyReads := rfl
@[simp] theorem State.setIr_turns (w : Word) : (s.setIr w).turns = s.turns := rfl
@[simp] theorem State.setIr_turnsTaken (w : Word) : (s.setIr w).turnsTaken = s.turnsTaken := rfl
@[simp] theorem State.setIr_invalidates (w : Word) : (s.setIr w).invalidates = s.invalidates := rfl
@[simp] theorem State.setIr_reg (w : Word) (y : Nibble) : (s.setIr w).reg y = s.reg y := rfl

/-! `State.setRun`. -/

@[simp] theorem State.setRun_v (r : RunState) : (s.setRun r).v = s.v := rfl
@[simp] theorem State.setRun_idx (r : RunState) : (s.setRun r).idx = s.idx := rfl
@[simp] theorem State.setRun_pc (r : RunState) : (s.setRun r).pc = s.pc := rfl
@[simp] theorem State.setRun_dt (r : RunState) : (s.setRun r).dt = s.dt := rfl
@[simp] theorem State.setRun_st (r : RunState) : (s.setRun r).st = s.st := rfl
@[simp] theorem State.setRun_stk (r : RunState) : (s.setRun r).stk = s.stk := rfl
@[simp] theorem State.setRun_sp (r : RunState) : (s.setRun r).sp = s.sp := rfl
@[simp] theorem State.setRun_fb (r : RunState) : (s.setRun r).fb = s.fb := rfl
@[simp] theorem State.setRun_mem (r : RunState) : (s.setRun r).mem = s.mem := rfl
@[simp] theorem State.setRun_run (r : RunState) : (s.setRun r).run = r := rfl
@[simp] theorem State.setRun_ir (r : RunState) : (s.setRun r).ir = s.ir := rfl
@[simp] theorem State.setRun_cause (r : RunState) : (s.setRun r).cause = s.cause := rfl
@[simp] theorem State.setRun_rndDraws (r : RunState) : (s.setRun r).rndDraws = s.rndDraws := rfl
@[simp] theorem State.setRun_keyReads (r : RunState) : (s.setRun r).keyReads = s.keyReads := rfl
@[simp] theorem State.setRun_turns (r : RunState) : (s.setRun r).turns = s.turns := rfl
@[simp] theorem State.setRun_turnsTaken (r : RunState) : (s.setRun r).turnsTaken = s.turnsTaken := rfl
@[simp] theorem State.setRun_invalidates (r : RunState) : (s.setRun r).invalidates = s.invalidates := rfl
@[simp] theorem State.setRun_reg (r : RunState) (y : Nibble) : (s.setRun r).reg y = s.reg y := rfl

/-! `State.setCause`. -/

@[simp] theorem State.setCause_v (c : Fault) : (s.setCause c).v = s.v := rfl
@[simp] theorem State.setCause_idx (c : Fault) : (s.setCause c).idx = s.idx := rfl
@[simp] theorem State.setCause_pc (c : Fault) : (s.setCause c).pc = s.pc := rfl
@[simp] theorem State.setCause_dt (c : Fault) : (s.setCause c).dt = s.dt := rfl
@[simp] theorem State.setCause_st (c : Fault) : (s.setCause c).st = s.st := rfl
@[simp] theorem State.setCause_stk (c : Fault) : (s.setCause c).stk = s.stk := rfl
@[simp] theorem State.setCause_sp (c : Fault) : (s.setCause c).sp = s.sp := rfl
@[simp] theorem State.setCause_fb (c : Fault) : (s.setCause c).fb = s.fb := rfl
@[simp] theorem State.setCause_mem (c : Fault) : (s.setCause c).mem = s.mem := rfl
@[simp] theorem State.setCause_run (c : Fault) : (s.setCause c).run = s.run := rfl
@[simp] theorem State.setCause_ir (c : Fault) : (s.setCause c).ir = s.ir := rfl
@[simp] theorem State.setCause_cause (c : Fault) : (s.setCause c).cause = some c := rfl
@[simp] theorem State.setCause_rndDraws (c : Fault) : (s.setCause c).rndDraws = s.rndDraws := rfl
@[simp] theorem State.setCause_keyReads (c : Fault) : (s.setCause c).keyReads = s.keyReads := rfl
@[simp] theorem State.setCause_turns (c : Fault) : (s.setCause c).turns = s.turns := rfl
@[simp] theorem State.setCause_turnsTaken (c : Fault) : (s.setCause c).turnsTaken = s.turnsTaken := rfl
@[simp] theorem State.setCause_invalidates (c : Fault) : (s.setCause c).invalidates = s.invalidates := rfl
@[simp] theorem State.setCause_reg (c : Fault) (y : Nibble) : (s.setCause c).reg y = s.reg y := rfl

/-! `State.setMem`. -/

@[simp] theorem State.setMem_v (m : Memory) : (s.setMem m).v = s.v := rfl
@[simp] theorem State.setMem_idx (m : Memory) : (s.setMem m).idx = s.idx := rfl
@[simp] theorem State.setMem_pc (m : Memory) : (s.setMem m).pc = s.pc := rfl
@[simp] theorem State.setMem_dt (m : Memory) : (s.setMem m).dt = s.dt := rfl
@[simp] theorem State.setMem_st (m : Memory) : (s.setMem m).st = s.st := rfl
@[simp] theorem State.setMem_stk (m : Memory) : (s.setMem m).stk = s.stk := rfl
@[simp] theorem State.setMem_sp (m : Memory) : (s.setMem m).sp = s.sp := rfl
@[simp] theorem State.setMem_fb (m : Memory) : (s.setMem m).fb = s.fb := rfl
@[simp] theorem State.setMem_mem (m : Memory) : (s.setMem m).mem = m := rfl
@[simp] theorem State.setMem_run (m : Memory) : (s.setMem m).run = s.run := rfl
@[simp] theorem State.setMem_ir (m : Memory) : (s.setMem m).ir = s.ir := rfl
@[simp] theorem State.setMem_cause (m : Memory) : (s.setMem m).cause = s.cause := rfl
@[simp] theorem State.setMem_rndDraws (m : Memory) : (s.setMem m).rndDraws = s.rndDraws := rfl
@[simp] theorem State.setMem_keyReads (m : Memory) : (s.setMem m).keyReads = s.keyReads := rfl
@[simp] theorem State.setMem_turns (m : Memory) : (s.setMem m).turns = s.turns := rfl
@[simp] theorem State.setMem_turnsTaken (m : Memory) : (s.setMem m).turnsTaken = s.turnsTaken := rfl
@[simp] theorem State.setMem_invalidates (m : Memory) : (s.setMem m).invalidates = s.invalidates := rfl
@[simp] theorem State.setMem_reg (m : Memory) (y : Nibble) : (s.setMem m).reg y = s.reg y := rfl

/-! `State.setFb`. -/

@[simp] theorem State.setFb_v (f : Framebuffer) : (s.setFb f).v = s.v := rfl
@[simp] theorem State.setFb_idx (f : Framebuffer) : (s.setFb f).idx = s.idx := rfl
@[simp] theorem State.setFb_pc (f : Framebuffer) : (s.setFb f).pc = s.pc := rfl
@[simp] theorem State.setFb_dt (f : Framebuffer) : (s.setFb f).dt = s.dt := rfl
@[simp] theorem State.setFb_st (f : Framebuffer) : (s.setFb f).st = s.st := rfl
@[simp] theorem State.setFb_stk (f : Framebuffer) : (s.setFb f).stk = s.stk := rfl
@[simp] theorem State.setFb_sp (f : Framebuffer) : (s.setFb f).sp = s.sp := rfl
@[simp] theorem State.setFb_fb (f : Framebuffer) : (s.setFb f).fb = f := rfl
@[simp] theorem State.setFb_mem (f : Framebuffer) : (s.setFb f).mem = s.mem := rfl
@[simp] theorem State.setFb_run (f : Framebuffer) : (s.setFb f).run = s.run := rfl
@[simp] theorem State.setFb_ir (f : Framebuffer) : (s.setFb f).ir = s.ir := rfl
@[simp] theorem State.setFb_cause (f : Framebuffer) : (s.setFb f).cause = s.cause := rfl
@[simp] theorem State.setFb_rndDraws (f : Framebuffer) : (s.setFb f).rndDraws = s.rndDraws := rfl
@[simp] theorem State.setFb_keyReads (f : Framebuffer) : (s.setFb f).keyReads = s.keyReads := rfl
@[simp] theorem State.setFb_turns (f : Framebuffer) : (s.setFb f).turns = s.turns := rfl
@[simp] theorem State.setFb_turnsTaken (f : Framebuffer) : (s.setFb f).turnsTaken = s.turnsTaken := rfl
@[simp] theorem State.setFb_invalidates (f : Framebuffer) : (s.setFb f).invalidates = s.invalidates := rfl
@[simp] theorem State.setFb_reg (f : Framebuffer) (y : Nibble) : (s.setFb f).reg y = s.reg y := rfl

/-! `State.pulseInvalidate`. -/

@[simp] theorem State.pulseInvalidate_v : (s.pulseInvalidate).v = s.v := rfl
@[simp] theorem State.pulseInvalidate_idx : (s.pulseInvalidate).idx = s.idx := rfl
@[simp] theorem State.pulseInvalidate_pc : (s.pulseInvalidate).pc = s.pc := rfl
@[simp] theorem State.pulseInvalidate_dt : (s.pulseInvalidate).dt = s.dt := rfl
@[simp] theorem State.pulseInvalidate_st : (s.pulseInvalidate).st = s.st := rfl
@[simp] theorem State.pulseInvalidate_stk : (s.pulseInvalidate).stk = s.stk := rfl
@[simp] theorem State.pulseInvalidate_sp : (s.pulseInvalidate).sp = s.sp := rfl
@[simp] theorem State.pulseInvalidate_fb : (s.pulseInvalidate).fb = s.fb := rfl
@[simp] theorem State.pulseInvalidate_mem : (s.pulseInvalidate).mem = s.mem := rfl
@[simp] theorem State.pulseInvalidate_run : (s.pulseInvalidate).run = s.run := rfl
@[simp] theorem State.pulseInvalidate_ir : (s.pulseInvalidate).ir = s.ir := rfl
@[simp] theorem State.pulseInvalidate_cause : (s.pulseInvalidate).cause = s.cause := rfl
@[simp] theorem State.pulseInvalidate_rndDraws : (s.pulseInvalidate).rndDraws = s.rndDraws := rfl
@[simp] theorem State.pulseInvalidate_keyReads : (s.pulseInvalidate).keyReads = s.keyReads := rfl
@[simp] theorem State.pulseInvalidate_turns : (s.pulseInvalidate).turns = s.turns := rfl
@[simp] theorem State.pulseInvalidate_turnsTaken : (s.pulseInvalidate).turnsTaken = s.turnsTaken := rfl
@[simp] theorem State.pulseInvalidate_invalidates : (s.pulseInvalidate).invalidates = s.invalidates + 1 := rfl
@[simp] theorem State.pulseInvalidate_reg (y : Nibble) : (s.pulseInvalidate).reg y = s.reg y := rfl

/-! `State.countKeyRead`. -/

@[simp] theorem State.countKeyRead_v : (s.countKeyRead).v = s.v := rfl
@[simp] theorem State.countKeyRead_idx : (s.countKeyRead).idx = s.idx := rfl
@[simp] theorem State.countKeyRead_pc : (s.countKeyRead).pc = s.pc := rfl
@[simp] theorem State.countKeyRead_dt : (s.countKeyRead).dt = s.dt := rfl
@[simp] theorem State.countKeyRead_st : (s.countKeyRead).st = s.st := rfl
@[simp] theorem State.countKeyRead_stk : (s.countKeyRead).stk = s.stk := rfl
@[simp] theorem State.countKeyRead_sp : (s.countKeyRead).sp = s.sp := rfl
@[simp] theorem State.countKeyRead_fb : (s.countKeyRead).fb = s.fb := rfl
@[simp] theorem State.countKeyRead_mem : (s.countKeyRead).mem = s.mem := rfl
@[simp] theorem State.countKeyRead_run : (s.countKeyRead).run = s.run := rfl
@[simp] theorem State.countKeyRead_ir : (s.countKeyRead).ir = s.ir := rfl
@[simp] theorem State.countKeyRead_cause : (s.countKeyRead).cause = s.cause := rfl
@[simp] theorem State.countKeyRead_rndDraws : (s.countKeyRead).rndDraws = s.rndDraws := rfl
@[simp] theorem State.countKeyRead_keyReads : (s.countKeyRead).keyReads = s.keyReads + 1 := rfl
@[simp] theorem State.countKeyRead_turns : (s.countKeyRead).turns = s.turns := rfl
@[simp] theorem State.countKeyRead_turnsTaken : (s.countKeyRead).turnsTaken = s.turnsTaken := rfl
@[simp] theorem State.countKeyRead_invalidates : (s.countKeyRead).invalidates = s.invalidates := rfl
@[simp] theorem State.countKeyRead_reg (y : Nibble) : (s.countKeyRead).reg y = s.reg y := rfl

/-! `State.countDraw`. -/

@[simp] theorem State.countDraw_v : (s.countDraw).v = s.v := rfl
@[simp] theorem State.countDraw_idx : (s.countDraw).idx = s.idx := rfl
@[simp] theorem State.countDraw_pc : (s.countDraw).pc = s.pc := rfl
@[simp] theorem State.countDraw_dt : (s.countDraw).dt = s.dt := rfl
@[simp] theorem State.countDraw_st : (s.countDraw).st = s.st := rfl
@[simp] theorem State.countDraw_stk : (s.countDraw).stk = s.stk := rfl
@[simp] theorem State.countDraw_sp : (s.countDraw).sp = s.sp := rfl
@[simp] theorem State.countDraw_fb : (s.countDraw).fb = s.fb := rfl
@[simp] theorem State.countDraw_mem : (s.countDraw).mem = s.mem := rfl
@[simp] theorem State.countDraw_run : (s.countDraw).run = s.run := rfl
@[simp] theorem State.countDraw_ir : (s.countDraw).ir = s.ir := rfl
@[simp] theorem State.countDraw_cause : (s.countDraw).cause = s.cause := rfl
@[simp] theorem State.countDraw_rndDraws : (s.countDraw).rndDraws = s.rndDraws + 1 := rfl
@[simp] theorem State.countDraw_keyReads : (s.countDraw).keyReads = s.keyReads := rfl
@[simp] theorem State.countDraw_turns : (s.countDraw).turns = s.turns := rfl
@[simp] theorem State.countDraw_turnsTaken : (s.countDraw).turnsTaken = s.turnsTaken := rfl
@[simp] theorem State.countDraw_invalidates : (s.countDraw).invalidates = s.invalidates := rfl
@[simp] theorem State.countDraw_reg (y : Nibble) : (s.countDraw).reg y = s.reg y := rfl

/-! `State.setFlagThenReg`. -/

@[simp] theorem State.setFlagThenReg_idx (x : Nibble) (c : Bool) (b : Byte) : (s.setFlagThenReg x c b).idx = s.idx := rfl
@[simp] theorem State.setFlagThenReg_pc (x : Nibble) (c : Bool) (b : Byte) : (s.setFlagThenReg x c b).pc = s.pc := rfl
@[simp] theorem State.setFlagThenReg_dt (x : Nibble) (c : Bool) (b : Byte) : (s.setFlagThenReg x c b).dt = s.dt := rfl
@[simp] theorem State.setFlagThenReg_st (x : Nibble) (c : Bool) (b : Byte) : (s.setFlagThenReg x c b).st = s.st := rfl
@[simp] theorem State.setFlagThenReg_stk (x : Nibble) (c : Bool) (b : Byte) : (s.setFlagThenReg x c b).stk = s.stk := rfl
@[simp] theorem State.setFlagThenReg_sp (x : Nibble) (c : Bool) (b : Byte) : (s.setFlagThenReg x c b).sp = s.sp := rfl
@[simp] theorem State.setFlagThenReg_fb (x : Nibble) (c : Bool) (b : Byte) : (s.setFlagThenReg x c b).fb = s.fb := rfl
@[simp] theorem State.setFlagThenReg_mem (x : Nibble) (c : Bool) (b : Byte) : (s.setFlagThenReg x c b).mem = s.mem := rfl
@[simp] theorem State.setFlagThenReg_run (x : Nibble) (c : Bool) (b : Byte) : (s.setFlagThenReg x c b).run = s.run := rfl
@[simp] theorem State.setFlagThenReg_ir (x : Nibble) (c : Bool) (b : Byte) : (s.setFlagThenReg x c b).ir = s.ir := rfl
@[simp] theorem State.setFlagThenReg_cause (x : Nibble) (c : Bool) (b : Byte) : (s.setFlagThenReg x c b).cause = s.cause := rfl
@[simp] theorem State.setFlagThenReg_rndDraws (x : Nibble) (c : Bool) (b : Byte) : (s.setFlagThenReg x c b).rndDraws = s.rndDraws := rfl
@[simp] theorem State.setFlagThenReg_keyReads (x : Nibble) (c : Bool) (b : Byte) : (s.setFlagThenReg x c b).keyReads = s.keyReads := rfl
@[simp] theorem State.setFlagThenReg_turns (x : Nibble) (c : Bool) (b : Byte) : (s.setFlagThenReg x c b).turns = s.turns := rfl
@[simp] theorem State.setFlagThenReg_turnsTaken (x : Nibble) (c : Bool) (b : Byte) : (s.setFlagThenReg x c b).turnsTaken = s.turnsTaken := rfl
@[simp] theorem State.setFlagThenReg_invalidates (x : Nibble) (c : Bool) (b : Byte) : (s.setFlagThenReg x c b).invalidates = s.invalidates := rfl

/-! `State.skipIf`. -/

@[simp] theorem State.skipIf_v (c : Bool) : (s.skipIf c).v = s.v := rfl
@[simp] theorem State.skipIf_idx (c : Bool) : (s.skipIf c).idx = s.idx := rfl
@[simp] theorem State.skipIf_pc (c : Bool) : (s.skipIf c).pc = if c then s.pc + 2 else s.pc := rfl
@[simp] theorem State.skipIf_dt (c : Bool) : (s.skipIf c).dt = s.dt := rfl
@[simp] theorem State.skipIf_st (c : Bool) : (s.skipIf c).st = s.st := rfl
@[simp] theorem State.skipIf_stk (c : Bool) : (s.skipIf c).stk = s.stk := rfl
@[simp] theorem State.skipIf_sp (c : Bool) : (s.skipIf c).sp = s.sp := rfl
@[simp] theorem State.skipIf_fb (c : Bool) : (s.skipIf c).fb = s.fb := rfl
@[simp] theorem State.skipIf_mem (c : Bool) : (s.skipIf c).mem = s.mem := rfl
@[simp] theorem State.skipIf_run (c : Bool) : (s.skipIf c).run = s.run := rfl
@[simp] theorem State.skipIf_ir (c : Bool) : (s.skipIf c).ir = s.ir := rfl
@[simp] theorem State.skipIf_cause (c : Bool) : (s.skipIf c).cause = s.cause := rfl
@[simp] theorem State.skipIf_rndDraws (c : Bool) : (s.skipIf c).rndDraws = s.rndDraws := rfl
@[simp] theorem State.skipIf_keyReads (c : Bool) : (s.skipIf c).keyReads = s.keyReads := rfl
@[simp] theorem State.skipIf_turns (c : Bool) : (s.skipIf c).turns = s.turns := rfl
@[simp] theorem State.skipIf_turnsTaken (c : Bool) : (s.skipIf c).turnsTaken = s.turnsTaken := rfl
@[simp] theorem State.skipIf_invalidates (c : Bool) : (s.skipIf c).invalidates = s.invalidates := rfl
@[simp] theorem State.skipIf_reg (c : Bool) (y : Nibble) : (s.skipIf c).reg y = s.reg y := rfl

/-! `State.fetched`. -/

@[simp] theorem State.fetched_v (w : Word) : (s.fetched w).v = s.v := rfl
@[simp] theorem State.fetched_idx (w : Word) : (s.fetched w).idx = s.idx := rfl
@[simp] theorem State.fetched_pc (w : Word) : (s.fetched w).pc = s.pc + 2 := rfl
@[simp] theorem State.fetched_dt (w : Word) : (s.fetched w).dt = s.dt := rfl
@[simp] theorem State.fetched_st (w : Word) : (s.fetched w).st = s.st := rfl
@[simp] theorem State.fetched_stk (w : Word) : (s.fetched w).stk = s.stk := rfl
@[simp] theorem State.fetched_sp (w : Word) : (s.fetched w).sp = s.sp := rfl
@[simp] theorem State.fetched_fb (w : Word) : (s.fetched w).fb = s.fb := rfl
@[simp] theorem State.fetched_mem (w : Word) : (s.fetched w).mem = s.mem := rfl
@[simp] theorem State.fetched_run (w : Word) : (s.fetched w).run = s.run := rfl
@[simp] theorem State.fetched_ir (w : Word) : (s.fetched w).ir = w := rfl
@[simp] theorem State.fetched_cause (w : Word) : (s.fetched w).cause = s.cause := rfl
@[simp] theorem State.fetched_rndDraws (w : Word) : (s.fetched w).rndDraws = s.rndDraws := rfl
@[simp] theorem State.fetched_keyReads (w : Word) : (s.fetched w).keyReads = s.keyReads := rfl
@[simp] theorem State.fetched_turns (w : Word) : (s.fetched w).turns = s.turns := rfl
@[simp] theorem State.fetched_turnsTaken (w : Word) : (s.fetched w).turnsTaken = s.turnsTaken := rfl
@[simp] theorem State.fetched_invalidates (w : Word) : (s.fetched w).invalidates = s.invalidates := rfl
@[simp] theorem State.fetched_reg (w : Word) (y : Nibble) : (s.fetched w).reg y = s.reg y := rfl

/-! `State.takeTurn`. -/

@[simp] theorem State.takeTurn_v : (s.takeTurn).v = s.v := rfl
@[simp] theorem State.takeTurn_idx : (s.takeTurn).idx = s.idx := rfl
@[simp] theorem State.takeTurn_pc : (s.takeTurn).pc = s.pc := rfl
@[simp] theorem State.takeTurn_dt : (s.takeTurn).dt = s.dt := rfl
@[simp] theorem State.takeTurn_st : (s.takeTurn).st = s.st := rfl
@[simp] theorem State.takeTurn_stk : (s.takeTurn).stk = s.stk := rfl
@[simp] theorem State.takeTurn_sp : (s.takeTurn).sp = s.sp := rfl
@[simp] theorem State.takeTurn_fb : (s.takeTurn).fb = s.fb := rfl
@[simp] theorem State.takeTurn_mem : (s.takeTurn).mem = s.mem := rfl
@[simp] theorem State.takeTurn_run : (s.takeTurn).run = s.run := rfl
@[simp] theorem State.takeTurn_ir : (s.takeTurn).ir = s.ir := rfl
@[simp] theorem State.takeTurn_cause : (s.takeTurn).cause = s.cause := rfl
@[simp] theorem State.takeTurn_rndDraws : (s.takeTurn).rndDraws = s.rndDraws := rfl
@[simp] theorem State.takeTurn_keyReads : (s.takeTurn).keyReads = s.keyReads := rfl
@[simp] theorem State.takeTurn_invalidates : (s.takeTurn).invalidates = s.invalidates := rfl
@[simp] theorem State.takeTurn_turns : (s.takeTurn).turns = s.turns.tail := rfl
@[simp] theorem State.takeTurn_turnsTaken : (s.takeTurn).turnsTaken = s.turnsTaken + 1 := rfl
@[simp] theorem State.takeTurn_reg (y : Nibble) : (s.takeTurn).reg y = s.reg y := rfl
@[simp] theorem State.takeTurn_fetch : (s.takeTurn).fetch = s.fetch := rfl
@[simp] theorem State.takeTurn_keyNow : (s.takeTurn).keyNow = s.keyNow := rfl

/-! `State.schedule`. -/

@[simp] theorem State.schedule_v (l : List Agent) : (s.schedule l).v = s.v := rfl
@[simp] theorem State.schedule_idx (l : List Agent) : (s.schedule l).idx = s.idx := rfl
@[simp] theorem State.schedule_pc (l : List Agent) : (s.schedule l).pc = s.pc := rfl
@[simp] theorem State.schedule_dt (l : List Agent) : (s.schedule l).dt = s.dt := rfl
@[simp] theorem State.schedule_st (l : List Agent) : (s.schedule l).st = s.st := rfl
@[simp] theorem State.schedule_stk (l : List Agent) : (s.schedule l).stk = s.stk := rfl
@[simp] theorem State.schedule_sp (l : List Agent) : (s.schedule l).sp = s.sp := rfl
@[simp] theorem State.schedule_fb (l : List Agent) : (s.schedule l).fb = s.fb := rfl
@[simp] theorem State.schedule_mem (l : List Agent) : (s.schedule l).mem = s.mem := rfl
@[simp] theorem State.schedule_run (l : List Agent) : (s.schedule l).run = s.run := rfl
@[simp] theorem State.schedule_ir (l : List Agent) : (s.schedule l).ir = s.ir := rfl
@[simp] theorem State.schedule_cause (l : List Agent) : (s.schedule l).cause = s.cause := rfl
@[simp] theorem State.schedule_rndDraws (l : List Agent) : (s.schedule l).rndDraws = s.rndDraws := rfl
@[simp] theorem State.schedule_keyReads (l : List Agent) : (s.schedule l).keyReads = s.keyReads := rfl
@[simp] theorem State.schedule_invalidates (l : List Agent) : (s.schedule l).invalidates = s.invalidates := rfl
@[simp] theorem State.schedule_turnsTaken (l : List Agent) : (s.schedule l).turnsTaken = s.turnsTaken := rfl
@[simp] theorem State.schedule_turns (l : List Agent) : (s.schedule l).turns = l ++ s.turns := rfl
@[simp] theorem State.schedule_reg (l : List Agent) (y : Nibble) : (s.schedule l).reg y = s.reg y := rfl
@[simp] theorem State.schedule_fetch (l : List Agent) : (s.schedule l).fetch = s.fetch := rfl
@[simp] theorem State.schedule_turn (a : Agent) (l : List Agent) : (s.schedule (a :: l)).turn = a := rfl

/-- A register reads as what was last written to it; writing one leaves the others. -/
@[simp] theorem State.setReg_reg (x y : Nibble) (b : Byte) :
    (s.setReg x b).reg y = if y = x then b else s.reg y := by
  simp [State.reg, State.setReg, Vector.getElem_set, BitVec.toNat_inj, eq_comm]

/-- The result is read at x even when x is VF (R100). -/
@[simp] theorem State.setFlagThenReg_reg (x y : Nibble) (c : Bool) (b : Byte) :
    (s.setFlagThenReg x c b).reg y = if y = x then b else if y = vf then flagByte c else s.reg y := by
  simp [State.setFlagThenReg]

end Sys2Proof.Machine
end

