-- ==== Sys2Proof/Laws/Ops.lean ====
section
/-!
SUPPORT. One lemma per shared operation, saying everything it can do; callers cite these instead of unfolding.
-/

namespace Sys2Proof.Machine

/-- A fault is a next state, and it is the only way into HALT (R185). -/
theorem raise_eq (c : Fault) (s : State) : raise c s = .next ((s.setCause c).setRun .halt) := rfl

/-- What a block read answers: the bytes, or none with some address above 0xFFF. -/
theorem State.readBlock_cases (s : State) (a n : Nat) :
    (inMemory a n ∧ s.readBlock a n = some ((List.range n).map fun k => s.mem.read (a + k))) ∨
    (¬ inMemory a n ∧ s.readBlock a n = none) := by
  unfold State.readBlock
  split
  · exact .inl ⟨‹_›, rfl⟩
  · exact .inr ⟨‹_›, rfl⟩

/-- What a block write answers: the state with the bytes written, or none with some address above 0xFFF. -/
theorem State.writeBlock_cases (s : State) (a : Nat) (bytes : List Byte) :
    (inMemory a bytes.length ∧ s.writeBlock a bytes = some (s.setMem (s.mem.writeList a bytes))) ∨
    (¬ inMemory a bytes.length ∧ s.writeBlock a bytes = none) := by
  unfold State.writeBlock
  split
  · exact .inl ⟨‹_›, rfl⟩
  · exact .inr ⟨‹_›, rfl⟩

/-- What a push answers (R82). -/
theorem State.push_cases (s : State) (w : Word) :
    (∃ h : s.sp.val < 16, s.push w =
      some { s with stk := s.stk.set s.sp.val w h, sp := ⟨s.sp.val + 1, Nat.succ_lt_succ h⟩ }) ∨
    (s.sp.val = 16 ∧ s.push w = none) := by
  unfold State.push
  split
  · exact .inl ⟨‹_›, rfl⟩
  · exact .inr ⟨by omega, rfl⟩

/-- What a pop answers (R80). -/
theorem State.pop_cases (s : State) :
    (s.sp.val = 0 ∧ s.pop = none) ∨
    (∃ h : 0 < s.sp.val, s.pop =
      some (s.stk[s.sp.val - 1]'(by omega), { s with sp := ⟨s.sp.val - 1, by omega⟩ })) := by
  unfold State.pop
  split
  · exact .inl ⟨‹_›, rfl⟩
  · exact .inr ⟨by omega, rfl⟩

/-- The registers from k on become the bytes of the list, and no other does. -/
theorem State.setRegList_reg (bytes : List Byte) (s : State) (k : Nat) (r : Nibble) (h : k + bytes.length ≤ 16) :
    (s.setRegList k bytes).reg r =
      if h : k ≤ r.toNat ∧ r.toNat - k < bytes.length then bytes[r.toNat - k]'h.2 else s.reg r := by
  induction bytes generalizing s k with
  | nil => simp [State.setRegList]
  | cons b bs ih =>
    simp only [List.length_cons] at h
    rw [State.setRegList, ih _ _ (by omega), State.setReg_reg]
    have hkr : r = BitVec.ofNat 4 k ↔ r.toNat = k := by
      rw [← BitVec.toNat_inj, BitVec.toNat_ofNat, Nat.mod_eq_of_lt (by omega)]
    by_cases hrk : r.toNat = k
    · rw [if_pos (hkr.2 hrk), dif_neg (by omega), dif_pos ⟨by omega, by simp only [List.length_cons]; omega⟩]
      simp only [hrk, Nat.sub_self, List.getElem_cons_zero]
    · rw [if_neg fun hc => hrk (hkr.1 hc)]
      by_cases hin : k + 1 ≤ r.toNat ∧ r.toNat - (k + 1) < bs.length
      · have hk : r.toNat - k = (r.toNat - (k + 1)) + 1 := by omega
        rw [dif_pos hin, dif_pos ⟨by omega, by simp only [List.length_cons]; omega⟩]
        simp only [hk, List.getElem_cons_succ]
      · rw [dif_neg hin, dif_neg (by simp only [List.length_cons]; omega)]

/-- Writing registers changes the register file alone. -/
theorem State.setRegList_eq (bytes : List Byte) (s : State) (k : Nat) :
    s.setRegList k bytes = { s with v := (s.setRegList k bytes).v } := by
  induction bytes generalizing s k with
  | nil => rfl
  | cons b bs ih => rw [State.setRegList, ih]; rfl

/-- Registers written do not touch the other fields. -/
@[simp] theorem State.setRegList_fields (bytes : List Byte) (s : State) (k : Nat) :
    (s.setRegList k bytes).idx = s.idx ∧ (s.setRegList k bytes).pc = s.pc ∧ (s.setRegList k bytes).dt = s.dt ∧
    (s.setRegList k bytes).st = s.st ∧ (s.setRegList k bytes).stk = s.stk ∧ (s.setRegList k bytes).sp = s.sp ∧
    (s.setRegList k bytes).fb = s.fb ∧ (s.setRegList k bytes).mem = s.mem ∧ (s.setRegList k bytes).run = s.run ∧
    (s.setRegList k bytes).ir = s.ir ∧ (s.setRegList k bytes).cause = s.cause ∧
    (s.setRegList k bytes).rndDraws = s.rndDraws ∧ (s.setRegList k bytes).keyReads = s.keyReads ∧
    (s.setRegList k bytes).turns = s.turns ∧ (s.setRegList k bytes).turnsTaken = s.turnsTaken ∧
    (s.setRegList k bytes).invalidates = s.invalidates := by
  rw [State.setRegList_eq]
  exact ⟨rfl, rfl, rfl, rfl, rfl, rfl, rfl, rfl, rfl, rfl, rfl, rfl, rfl, rfl, rfl, rfl⟩

/-- One timer after one tick, as a number: one less, stopping at 0 (R195). -/
theorem toNat_countDown (b : Byte) : (countDown b).toNat = b.toNat - 1 := by
  unfold countDown
  split
  · simp_all
  · rename_i h
    have h0 : b.toNat ≠ 0 := fun hz => h (BitVec.eq_of_toNat_eq hz)
    have := b.isLt
    rw [BitVec.toNat_sub]
    show (2 ^ 8 - 1 + b.toNat) % 2 ^ 8 = _
    omega

/-- What a tick does: both timers counted down out of HALT, nothing in HALT (R195, R197). -/
theorem State.tick_cases (s : State) :
    (s.run ≠ .halt ∧ s.tick = { s with dt := countDown s.dt, st := countDown s.st }) ∨ (s.run = .halt ∧ s.tick = s) := by
  unfold State.tick
  cases h : s.run <;> simp

/-- A tick changes the timers alone. -/
theorem State.tick_eq (s : State) : s.tick = { s with dt := s.tick.dt, st := s.tick.st } := by
  obtain ⟨_, h⟩ | ⟨_, h⟩ := s.tick_cases <;> rw [h]

@[simp] theorem State.tick_v (s : State) : s.tick.v = s.v := by rw [State.tick_eq]
@[simp] theorem State.tick_idx (s : State) : s.tick.idx = s.idx := by rw [State.tick_eq]
@[simp] theorem State.tick_pc (s : State) : s.tick.pc = s.pc := by rw [State.tick_eq]
@[simp] theorem State.tick_stk (s : State) : s.tick.stk = s.stk := by rw [State.tick_eq]
@[simp] theorem State.tick_sp (s : State) : s.tick.sp = s.sp := by rw [State.tick_eq]
@[simp] theorem State.tick_fb (s : State) : s.tick.fb = s.fb := by rw [State.tick_eq]
@[simp] theorem State.tick_mem (s : State) : s.tick.mem = s.mem := by rw [State.tick_eq]
@[simp] theorem State.tick_run (s : State) : s.tick.run = s.run := by rw [State.tick_eq]
@[simp] theorem State.tick_ir (s : State) : s.tick.ir = s.ir := by rw [State.tick_eq]
@[simp] theorem State.tick_cause (s : State) : s.tick.cause = s.cause := by rw [State.tick_eq]
@[simp] theorem State.tick_rndDraws (s : State) : s.tick.rndDraws = s.rndDraws := by rw [State.tick_eq]
@[simp] theorem State.tick_keyReads (s : State) : s.tick.keyReads = s.keyReads := by rw [State.tick_eq]
@[simp] theorem State.tick_turns (s : State) : s.tick.turns = s.turns := by rw [State.tick_eq]
@[simp] theorem State.tick_turnsTaken (s : State) : s.tick.turnsTaken = s.turnsTaken := by rw [State.tick_eq]
@[simp] theorem State.tick_invalidates (s : State) : s.tick.invalidates = s.invalidates := by rw [State.tick_eq]
@[simp] theorem State.tick_reg (s : State) (r : Nibble) : s.tick.reg r = s.reg r := by rw [State.tick_eq]; rfl
@[simp] theorem State.tick_fetch (s : State) : s.tick.fetch = s.fetch := by rw [State.tick_eq]; rfl

/-- What a fetch answers (R28, R44). -/
theorem State.fetch_cases (s : State) :
    (s.pc.toNat ≤ 0xFFE ∧ s.fetch = some (s.mem.read s.pc.toNat ++ s.mem.read (s.pc.toNat + 1))) ∨
    (0xFFE < s.pc.toNat ∧ s.fetch = none) := by
  unfold State.fetch
  split
  · exact .inr ⟨by omega, rfl⟩
  · exact .inl ⟨by omega, rfl⟩

/-- What the engine's step does, by RUN_STATE (R28, R37, R185). -/
theorem engineStep_cases (s : State) :
    (s.run = .run ∧ ∃ w i, s.fetch = some w ∧ decode w = .ok i ∧ engineStep s = exec i (s.fetched w)) ∨
    (s.run = .run ∧ ∃ w e, s.fetch = some w ∧ decode w = .error e ∧
      engineStep s = raise .unsupportedOpcode (s.fetched w)) ∨
    (s.run = .run ∧ s.fetch = none ∧ engineStep s = raise .memBounds s) ∨
    (s.run = .waitKey ∧ engineStep s = pollStep s) ∨
    (s.run = .halt ∧ engineStep s = .next s) := by
  unfold engineStep instructionStep
  cases hr : s.run
  · cases hf : s.fetch with
    | none => simp [fetchFault]
    | some w =>
      cases hd : decode w with
      | ok i => simp [hd]
      | error e => simp [hd, unsupportedWord]
  · simp
  · simp [haltStep]

/-- What one step does: nothing in HALT, else the step of the agent whose turn it is (R27). -/
theorem step_cases (s : State) :
    (s.run ≠ .halt ∧ s.turn = .engine ∧ step s = engineStep s.takeTurn) ∨
    (s.run ≠ .halt ∧ s.turn = .timerUnit ∧ step s = .next s.takeTurn.tick) ∨
    (s.run = .halt ∧ step s = .next s) := by
  unfold step machineStep
  by_cases h : s.run = .halt
  · simp [h, haltStep]
  · cases ht : s.turn <;> simp [h, tickStep]

end Sys2Proof.Machine
end

