-- ==== Sys2Proof/Laws/Exec.lean ====
section
/-!
SUPPORT. What each of the meanings that can take a fault answers: one case where it completes, one where it faults. Every
other meaning is `.next` of a state written out, so its lemma is its definition.
-/

namespace Sys2Proof.Machine

theorem execRet_cases (s : State) :
    (s.sp.val = 0 ∧ exec .ret s = raise .stackUnderflow s) ∨
    (∃ h : 0 < s.sp.val, exec .ret s =
      .next { s with pc := s.stk[s.sp.val - 1]'(by omega), sp := ⟨s.sp.val - 1, by omega⟩ }) := by
  obtain ⟨h, hp⟩ | ⟨h, hp⟩ := s.pop_cases
  · exact .inl ⟨h, by simp only [exec, execRet, hp]⟩
  · exact .inr ⟨h, by simp only [exec, execRet, hp, State.setPc]⟩

theorem execCall_cases (nnn : Addr) (s : State) :
    (s.sp.val = 16 ∧ exec (.call nnn) s = raise .stackOverflow s) ∨
    (∃ h : s.sp.val < 16, exec (.call nnn) s =
      .next { s with stk := s.stk.set s.sp.val s.pc h, sp := ⟨s.sp.val + 1, Nat.succ_lt_succ h⟩,
                     pc := literalAddr nnn }) := by
  obtain ⟨h, hp⟩ | ⟨h, hp⟩ := s.push_cases s.pc
  · exact .inr ⟨h, by simp only [exec, execCall, hp, State.setPc]⟩
  · exact .inl ⟨h, by simp only [exec, execCall, hp]⟩

/-- The store both LD B,Vx and LD [I],Vx make (R126). -/
theorem storeAtIndex_cases (bytes : List Byte) (s : State) :
    (inMemory s.idx.toNat bytes.length ∧
      storeAtIndex bytes s = .next (s.setMem (s.mem.writeList s.idx.toNat bytes))) ∨
    (¬ inMemory s.idx.toNat bytes.length ∧ storeAtIndex bytes s = raise .memBounds s) := by
  obtain ⟨h, hp⟩ | ⟨h, hp⟩ := s.writeBlock_cases s.base bytes
  · exact .inl ⟨h, by simp only [storeAtIndex, hp]; rfl⟩
  · exact .inr ⟨h, by simp only [storeAtIndex, hp]⟩

theorem execLdVxMem_cases (x : Nibble) (s : State) :
    (inMemory s.idx.toNat (x.toNat + 1) ∧ exec (.ldVxMem x) s =
      .next (s.setRegList 0 ((List.range (x.toNat + 1)).map fun k => s.mem.read (s.idx.toNat + k)))) ∨
    (¬ inMemory s.idx.toNat (x.toNat + 1) ∧ exec (.ldVxMem x) s = raise .memBounds s) := by
  obtain ⟨h, hp⟩ | ⟨h, hp⟩ := s.readBlock_cases s.base (blockCount x)
  · exact .inl ⟨h, by simp only [exec, execLdVxMem, hp]; rfl⟩
  · exact .inr ⟨h, by simp only [exec, execLdVxMem, hp]⟩

theorem execDrw_cases (x y n : Nibble) (s : State) :
    (inMemory s.idx.toNat n.toNat ∧ ∃ r, r = blit (s.reg x) (s.reg y)
        ((List.range n.toNat).map fun k => s.mem.read (s.idx.toNat + k)) s.fb ∧
      exec (.drwVxVyN x y n) s = .next (((s.setFb r.1).setReg vf (flagByte r.2)).pulseInvalidate)) ∨
    (¬ inMemory s.idx.toNat n.toNat ∧ exec (.drwVxVyN x y n) s = raise .memBounds s) := by
  obtain ⟨h, hp⟩ | ⟨h, hp⟩ := s.readBlock_cases s.base n.toNat
  · exact .inl ⟨h, _, rfl, by simp only [exec, execDrwVxVyN, hp]; rfl⟩
  · exact .inr ⟨h, by simp only [exec, execDrwVxVyN, hp]⟩

end Sys2Proof.Machine
end

