-- ==== Sys2Proof/Laws/PerInstr.lean ====
section
/-!
SUPPORT. The family MatchesRow: the encoder's word of every instruction matches the instruction's row of the opcode map
(30_encoding.md R65), one lemma per constructor.
-/

namespace Sys2Proof.Laws.MatchesRow

/-- The match value and the mask of an instruction's row, as spec/opcode_table.json gives them. -/
def row : Instr → Word × Word
  | .cls => (0x00E0, 0xFFFF)
  | .ret => (0x00EE, 0xFFFF)
  | .jp _ => (0x1000, 0xF000)
  | .call _ => (0x2000, 0xF000)
  | .seVxKk _ _ => (0x3000, 0xF000)
  | .sneVxKk _ _ => (0x4000, 0xF000)
  | .seVxVy _ _ _ => (0x5000, 0xF000)
  | .ldVxKk _ _ => (0x6000, 0xF000)
  | .addVxKk _ _ => (0x7000, 0xF000)
  | .ldVxVy _ _ => (0x8000, 0xF00F)
  | .orVxVy _ _ => (0x8001, 0xF00F)
  | .andVxVy _ _ => (0x8002, 0xF00F)
  | .xorVxVy _ _ => (0x8003, 0xF00F)
  | .addVxVy _ _ => (0x8004, 0xF00F)
  | .subVxVy _ _ => (0x8005, 0xF00F)
  | .shrVx _ _ => (0x8006, 0xF00F)
  | .subnVxVy _ _ => (0x8007, 0xF00F)
  | .shlVx _ _ => (0x800E, 0xF00F)
  | .sneVxVy _ _ _ => (0x9000, 0xF000)
  | .ldINnn _ => (0xA000, 0xF000)
  | .jpV0Nnn _ => (0xB000, 0xF000)
  | .rndVxKk _ _ => (0xC000, 0xF000)
  | .drwVxVyN _ _ _ => (0xD000, 0xF000)
  | .skpVx _ => (0xE09E, 0xF0FF)
  | .sknpVx _ => (0xE0A1, 0xF0FF)
  | .ldVxDt _ => (0xF007, 0xF0FF)
  | .ldVxK _ => (0xF00A, 0xF0FF)
  | .ldDtVx _ => (0xF015, 0xF0FF)
  | .ldStVx _ => (0xF018, 0xF0FF)
  | .addIVx _ => (0xF01E, 0xF0FF)
  | .ldFVx _ => (0xF029, 0xF0FF)
  | .ldBVx _ => (0xF033, 0xF0FF)
  | .ldMemVx _ => (0xF055, 0xF0FF)
  | .ldVxMem _ => (0xF065, 0xF0FF)

/-- The instruction's word agrees with its row's match on the row's mask. -/
def Statement (i : Instr) : Prop := encode i &&& (row i).2 = (row i).1

/-- A word of four nibbles under a mask of four nibbles, nibble by nibble. -/
theorem wordOf_and (a b c d e f g h : Nibble) :
    wordOf a b c d &&& wordOf e f g h = wordOf (a &&& e) (b &&& f) (c &&& g) (d &&& h) := by
  unfold wordOf
  refine (BitVec.and_append (x₁ := a ++ b ++ c) (x₂ := e ++ f ++ g)).trans ?_
  rw [BitVec.and_append, BitVec.and_append]

theorem nibble_and_zero (x : Nibble) : x &&& 0 = 0 := BitVec.and_zero

/-- A word of format XKK as four nibbles. -/
theorem wordXkk_eq_wordOf (op x : Nibble) (kk : Byte) :
    wordXkk op x kk = wordOf op x (kk.extractLsb' 4 4) (kk.extractLsb' 0 4) := by
  apply BitVec.eq_of_toNat_eq
  rw [toNat_wordXkk, toNat_wordOf]
  simp only [BitVec.extractLsb'_toNat, Nat.shiftRight_eq_div_pow]
  omega

/-- A word of format NNN as four nibbles. -/
theorem wordNnn_eq_wordOf (op : Nibble) (nnn : Addr) :
    wordNnn op nnn = wordOf op (nnn.extractLsb' 8 4) (nnn.extractLsb' 4 4) (nnn.extractLsb' 0 4) := by
  apply BitVec.eq_of_toNat_eq
  rw [toNat_wordNnn, toNat_wordOf]
  simp only [BitVec.extractLsb'_toNat, Nat.shiftRight_eq_div_pow]
  omega

theorem maskF000 : (0xF000 : Word) = wordOf 0xF 0 0 0 := by decide
theorem maskF00F : (0xF00F : Word) = wordOf 0xF 0 0 0xF := by decide
theorem maskF0FF : (0xF0FF : Word) = wordOf 0xF 0 0xF 0xF := by decide

theorem cls : Statement .cls := by unfold Statement; decide
theorem ret : Statement .ret := by unfold Statement; decide
theorem jp (nnn : Addr) : Statement (.jp nnn) := by
  simp only [Statement, encode, row, wordNnn_eq_wordOf, maskF000, wordOf_and, nibble_and_zero]
  decide
theorem call (nnn : Addr) : Statement (.call nnn) := by
  simp only [Statement, encode, row, wordNnn_eq_wordOf, maskF000, wordOf_and, nibble_and_zero]
  decide
theorem seVxKk (x : Nibble) (kk : Byte) : Statement (.seVxKk x kk) := by
  simp only [Statement, encode, row, wordXkk_eq_wordOf, maskF000, wordOf_and, nibble_and_zero]
  decide
theorem sneVxKk (x : Nibble) (kk : Byte) : Statement (.sneVxKk x kk) := by
  simp only [Statement, encode, row, wordXkk_eq_wordOf, maskF000, wordOf_and, nibble_and_zero]
  decide
theorem seVxVy (x y lo : Nibble) : Statement (.seVxVy x y lo) := by
  simp only [Statement, encode, row, maskF000, wordOf_and, nibble_and_zero]
  decide
theorem ldVxKk (x : Nibble) (kk : Byte) : Statement (.ldVxKk x kk) := by
  simp only [Statement, encode, row, wordXkk_eq_wordOf, maskF000, wordOf_and, nibble_and_zero]
  decide
theorem addVxKk (x : Nibble) (kk : Byte) : Statement (.addVxKk x kk) := by
  simp only [Statement, encode, row, wordXkk_eq_wordOf, maskF000, wordOf_and, nibble_and_zero]
  decide
theorem ldVxVy (x y : Nibble) : Statement (.ldVxVy x y) := by
  simp only [Statement, encode, row, maskF00F, wordOf_and, nibble_and_zero]
  decide
theorem orVxVy (x y : Nibble) : Statement (.orVxVy x y) := by
  simp only [Statement, encode, row, maskF00F, wordOf_and, nibble_and_zero]
  decide
theorem andVxVy (x y : Nibble) : Statement (.andVxVy x y) := by
  simp only [Statement, encode, row, maskF00F, wordOf_and, nibble_and_zero]
  decide
theorem xorVxVy (x y : Nibble) : Statement (.xorVxVy x y) := by
  simp only [Statement, encode, row, maskF00F, wordOf_and, nibble_and_zero]
  decide
theorem addVxVy (x y : Nibble) : Statement (.addVxVy x y) := by
  simp only [Statement, encode, row, maskF00F, wordOf_and, nibble_and_zero]
  decide
theorem subVxVy (x y : Nibble) : Statement (.subVxVy x y) := by
  simp only [Statement, encode, row, maskF00F, wordOf_and, nibble_and_zero]
  decide
theorem shrVx (x y : Nibble) : Statement (.shrVx x y) := by
  simp only [Statement, encode, row, maskF00F, wordOf_and, nibble_and_zero]
  decide
theorem subnVxVy (x y : Nibble) : Statement (.subnVxVy x y) := by
  simp only [Statement, encode, row, maskF00F, wordOf_and, nibble_and_zero]
  decide
theorem shlVx (x y : Nibble) : Statement (.shlVx x y) := by
  simp only [Statement, encode, row, maskF00F, wordOf_and, nibble_and_zero]
  decide
theorem sneVxVy (x y lo : Nibble) : Statement (.sneVxVy x y lo) := by
  simp only [Statement, encode, row, maskF000, wordOf_and, nibble_and_zero]
  decide
theorem ldINnn (nnn : Addr) : Statement (.ldINnn nnn) := by
  simp only [Statement, encode, row, wordNnn_eq_wordOf, maskF000, wordOf_and, nibble_and_zero]
  decide
theorem jpV0Nnn (nnn : Addr) : Statement (.jpV0Nnn nnn) := by
  simp only [Statement, encode, row, wordNnn_eq_wordOf, maskF000, wordOf_and, nibble_and_zero]
  decide
theorem rndVxKk (x : Nibble) (kk : Byte) : Statement (.rndVxKk x kk) := by
  simp only [Statement, encode, row, wordXkk_eq_wordOf, maskF000, wordOf_and, nibble_and_zero]
  decide
theorem drwVxVyN (x y n : Nibble) : Statement (.drwVxVyN x y n) := by
  simp only [Statement, encode, row, maskF000, wordOf_and, nibble_and_zero]
  decide
theorem skpVx (x : Nibble) : Statement (.skpVx x) := by
  simp only [Statement, encode, row, wordXkk_eq_wordOf, maskF0FF, wordOf_and, nibble_and_zero]
  decide
theorem sknpVx (x : Nibble) : Statement (.sknpVx x) := by
  simp only [Statement, encode, row, wordXkk_eq_wordOf, maskF0FF, wordOf_and, nibble_and_zero]
  decide
theorem ldVxDt (x : Nibble) : Statement (.ldVxDt x) := by
  simp only [Statement, encode, row, wordXkk_eq_wordOf, maskF0FF, wordOf_and, nibble_and_zero]
  decide
theorem ldVxK (x : Nibble) : Statement (.ldVxK x) := by
  simp only [Statement, encode, row, wordXkk_eq_wordOf, maskF0FF, wordOf_and, nibble_and_zero]
  decide
theorem ldDtVx (x : Nibble) : Statement (.ldDtVx x) := by
  simp only [Statement, encode, row, wordXkk_eq_wordOf, maskF0FF, wordOf_and, nibble_and_zero]
  decide
theorem ldStVx (x : Nibble) : Statement (.ldStVx x) := by
  simp only [Statement, encode, row, wordXkk_eq_wordOf, maskF0FF, wordOf_and, nibble_and_zero]
  decide
theorem addIVx (x : Nibble) : Statement (.addIVx x) := by
  simp only [Statement, encode, row, wordXkk_eq_wordOf, maskF0FF, wordOf_and, nibble_and_zero]
  decide
theorem ldFVx (x : Nibble) : Statement (.ldFVx x) := by
  simp only [Statement, encode, row, wordXkk_eq_wordOf, maskF0FF, wordOf_and, nibble_and_zero]
  decide
theorem ldBVx (x : Nibble) : Statement (.ldBVx x) := by
  simp only [Statement, encode, row, wordXkk_eq_wordOf, maskF0FF, wordOf_and, nibble_and_zero]
  decide
theorem ldMemVx (x : Nibble) : Statement (.ldMemVx x) := by
  simp only [Statement, encode, row, wordXkk_eq_wordOf, maskF0FF, wordOf_and, nibble_and_zero]
  decide
theorem ldVxMem (x : Nibble) : Statement (.ldVxMem x) := by
  simp only [Statement, encode, row, wordXkk_eq_wordOf, maskF0FF, wordOf_and, nibble_and_zero]
  decide

end Sys2Proof.Laws.MatchesRow
end

