-- ==== Sys2Proof/Tests/Slice0.lean ====
section
/-!
SUPPORT. The model's own tests: the well-formedness smoke test, a word for every constructor, one-step tests against
spec/95_test_vectors.md (each named by its vector), and a witness for every obligation that has hypotheses.
-/

namespace Sys2Proof.Tests

open Sys2Proof Sys2Proof.Machine

/-! ### WellFormed: one ill-formed term a check -/

theorem test_wf_refuses_low_nibble_of_se : (Instr.seVxVy 1 2 7).illFormed? = some (.ignoredLowNibble 7) := by decide
theorem test_wf_refuses_low_nibble_of_sne : (Instr.sneVxVy 1 2 1).illFormed? = some (.ignoredLowNibble 1) := by decide
theorem test_wf_refuses_y_of_shr : (Instr.shrVx 1 2).illFormed? = some (.ignoredY 2) := by decide
theorem test_wf_refuses_y_of_shl : (Instr.shlVx 1 15).illFormed? = some (.ignoredY 15) := by decide
theorem test_wf_takes_canonical : (Instr.seVxVy 1 2 0).WellFormed ∧ (Instr.shlVx 1 0).WellFormed ∧ Instr.cls.WellFormed := by
  decide

/-! ### Decoding: every constructor from a word written out field by field (30_encoding.md R61, R65; vectors T150 to T165) -/

theorem test_decode_families_0_to_7 :
    decode 0x00E0 = .ok .cls ∧ decode 0x00EE = .ok .ret ∧ decode 0x1ABC = .ok (.jp 0xABC) ∧
    decode 0x2345 = .ok (.call 0x345) ∧ decode 0x3A42 = .ok (.seVxKk 0xA 0x42) ∧
    decode 0x4A42 = .ok (.sneVxKk 0xA 0x42) ∧ decode 0x5ABF = .ok (.seVxVy 0xA 0xB 0xF) ∧
    decode 0x6F12 = .ok (.ldVxKk 0xF 0x12) ∧ decode 0x7F12 = .ok (.addVxKk 0xF 0x12) := by decide

theorem test_decode_family_8 :
    decode 0x8AB0 = .ok (.ldVxVy 0xA 0xB) ∧ decode 0x8AB1 = .ok (.orVxVy 0xA 0xB) ∧
    decode 0x8AB2 = .ok (.andVxVy 0xA 0xB) ∧ decode 0x8AB3 = .ok (.xorVxVy 0xA 0xB) ∧
    decode 0x8AB4 = .ok (.addVxVy 0xA 0xB) ∧ decode 0x8AB5 = .ok (.subVxVy 0xA 0xB) ∧
    decode 0x8AB6 = .ok (.shrVx 0xA 0xB) ∧ decode 0x8AB7 = .ok (.subnVxVy 0xA 0xB) ∧
    decode 0x8ABE = .ok (.shlVx 0xA 0xB) := by decide

theorem test_decode_families_9_to_D :
    decode 0x9AB0 = .ok (.sneVxVy 0xA 0xB 0x0) ∧ decode 0xAF12 = .ok (.ldINnn 0xF12) ∧
    decode 0xBFFE = .ok (.jpV0Nnn 0xFFE) ∧ decode 0xCF12 = .ok (.rndVxKk 0xF 0x12) ∧
    decode 0xDF12 = .ok (.drwVxVyN 0xF 0x1 0x2) := by decide

theorem test_decode_families_E_and_F :
    decode 0xEA9E = .ok (.skpVx 0xA) ∧ decode 0xEAA1 = .ok (.sknpVx 0xA) ∧ decode 0xFA07 = .ok (.ldVxDt 0xA) ∧
    decode 0xFA0A = .ok (.ldVxK 0xA) ∧ decode 0xFA15 = .ok (.ldDtVx 0xA) ∧ decode 0xFA18 = .ok (.ldStVx 0xA) ∧
    decode 0xFA1E = .ok (.addIVx 0xA) ∧ decode 0xFA29 = .ok (.ldFVx 0xA) ∧ decode 0xFA33 = .ok (.ldBVx 0xA) ∧
    decode 0xFA55 = .ok (.ldMemVx 0xA) ∧ decode 0xFA65 = .ok (.ldVxMem 0xA) := by decide

/-- T150, T152, T154, T159, T162, T164. -/
theorem test_decode_unsupported :
    [0x0000, 0x00E1, 0x00FF, 0x0FFF, 0x8AB8, 0x8ABD, 0x8ABF, 0xEA00, 0xEAA0, 0xEAFF, 0xFA00, 0xFA1F, 0xFA75, 0xFAFF].all
      (fun w : Word => decide (decode w = .error (.unsupported w))) = true := by decide

/-- A word's fields (95_test_vectors.md section 2.6: DAB7). -/
theorem test_fields : fieldOp 0xDAB7 = 0xD ∧ fieldX 0xDAB7 = 0xA ∧ fieldY 0xDAB7 = 0xB ∧ fieldN 0xDAB7 = 7 ∧
    fieldKk 0xDAB7 = 0xB7 ∧ fieldNnn 0xDAB7 = 0xAB7 ∧ bigEndian 0xDA 0xB7 = 0xDAB7 := by decide

theorem test_decode_truncated : decodeBytes [0xDA] = .error .truncated := by decide

/-! ### One step -/

/-- The reset state with some registers set. -/
def withRegs (rs : List (Nibble × Byte)) : State := rs.foldl (fun s r => s.setReg r.1 r.2) State.reset

/-- The reset state with some bytes of memory set. -/
def withMem (a : Nat) (bytes : List Byte) (s : State) : State := s.setMem (s.mem.writeList a bytes)

/-- The reset state with a stack of this depth, its entries 0x0300, 0x0301, ... -/
def withDepth (d : Fin 17) : State :=
  { State.reset with sp := d, stk := Vector.ofFn fun k => BitVec.ofNat 16 (0x300 + k.val) }

/-- The next state an outcome holds, or reset. -/
def nextOf : Result → State
  | .next t => t
  | .fault _ => State.reset
  | .refused _ => State.reset

/-- One step of the machine with word w at 0x200 ends in a next state of which p holds. -/
def runs (w : Nat) (s : State) (p : State → Bool) : Bool :=
  match step (s.withFetchWord 16 w) with
  | .next t => p t
  | .fault _ => false
  | .refused _ => false

/-- T1, T23, T24. -/
theorem test_jumps : runs 0x1ABC State.reset (·.pc == 0xABC) = true ∧
    runs 0xB300 (withRegs [(0, 0x10)]) (·.pc == 0x310) = true ∧
    runs 0xBFFF (withRegs [(0, 0xFF)]) (·.pc == 0x10FE) = true := by decide
/-- T5, T7. -/
theorem test_call : runs 0x2300 State.reset (fun t => t.pc == 0x300 && t.sp == 1 && t.stk[0] == 0x202) = true ∧
    runs 0x2300 (withDepth 16) (fun t => t.halted && t.faultCause == 3 && t.ir == 0x2300 && t.pc == 0x202) = true := by decide
/-- T10, T9. -/
theorem test_ret : runs 0x00EE (withDepth 2) (fun t => t.pc == 0x301 && t.sp == 1) = true ∧
    runs 0x00EE State.reset (fun t => t.halted && t.faultCause == 2 && t.ir == 0x00EE && t.pc == 0x202) = true := by decide
/-- T11, T12, T13, T14. -/
theorem test_skips_immediate : runs 0x3A42 (withRegs [(0xA, 0x42)]) (·.pc == 0x204) = true ∧
    runs 0x3A42 (withRegs [(0xA, 0x43)]) (·.pc == 0x202) = true ∧
    runs 0x4A42 (withRegs [(0xA, 0x42)]) (·.pc == 0x202) = true ∧
    runs 0x4A42 (withRegs [(0xA, 0x43)]) (·.pc == 0x204) = true := by decide
/-- T16, T18, T19, T21. -/
theorem test_skips_register : runs 0x5120 (withRegs [(1, 7), (2, 8)]) (·.pc == 0x202) = true ∧
    runs 0x5127 (withRegs [(1, 7), (2, 7)]) (·.pc == 0x204) = true ∧
    runs 0x9120 (withRegs [(1, 7), (2, 8)]) (·.pc == 0x204) = true ∧
    runs 0x9120 (withRegs [(1, 7), (2, 7)]) (·.pc == 0x202) = true := by decide
/-- T30, T32, T35. -/
theorem test_loads : runs 0x6A7F State.reset (·.reg 0xA == 0x7F) = true ∧
    runs 0x7A01 (withRegs [(0xA, 0xFF)]) (fun t => t.reg 0xA == 0 && t.reg 15 == 0) = true ∧
    runs 0x8120 (withRegs [(1, 0x11), (2, 0x22)]) (·.reg 1 == 0x22) = true := by decide
/-- T36, T37, T38. -/
theorem test_logic : runs 0x8121 (withRegs [(1, 0x5A), (2, 0x0F), (15, 1)]) (fun t => t.reg 1 == 0x5F && t.reg 15 == 1) = true ∧
    runs 0x8122 (withRegs [(1, 0x5A), (2, 0x0F), (15, 1)]) (fun t => t.reg 1 == 0x0A && t.reg 15 == 1) = true ∧
    runs 0x8123 (withRegs [(1, 0x5A), (2, 0x0F), (15, 1)]) (fun t => t.reg 1 == 0x55 && t.reg 15 == 1) = true := by decide
/-- S1, T44. -/
theorem test_add : runs 0x8014 (withRegs [(0, 0xED), (1, 0x4B)]) (fun t => t.reg 0 == 0x38 && t.reg 15 == 1) = true ∧
    runs 0x8F14 (withRegs [(15, 0xF0), (1, 0x20)]) (·.reg 15 == 0x10) = true := by decide
/-- S2 (b), T47. -/
theorem test_sub : runs 0x8015 (withRegs [(0, 0x2D), (1, 0x4B)]) (fun t => t.reg 0 == 0xE2 && t.reg 15 == 0) = true ∧
    runs 0x8125 (withRegs [(1, 0x33), (2, 0x33)]) (fun t => t.reg 1 == 0 && t.reg 15 == 0) = true := by decide
/-- T54, T57. -/
theorem test_shr : runs 0x8126 (withRegs [(1, 0x80), (2, 0xFF)]) (fun t => t.reg 1 == 0x40 && t.reg 15 == 0) = true ∧
    runs 0x8F06 (withRegs [(15, 0x02)]) (·.reg 15 == 0x01) = true := by decide
/-- T60, T62. -/
theorem test_subn : runs 0x8127 (withRegs [(1, 0x33), (2, 0x33)]) (fun t => t.reg 1 == 0 && t.reg 15 == 1) = true ∧
    runs 0x81F7 (withRegs [(1, 0x05), (15, 0x03)]) (fun t => t.reg 1 == 0xFE && t.reg 15 == 0) = true := by decide
/-- S4, T64. -/
theorem test_shl : runs 0x800E (withRegs [(0, 0xB6)]) (fun t => t.reg 0 == 0x6C && t.reg 15 == 1) = true ∧
    runs 0x812E (withRegs [(1, 0x7F), (2, 0xFF)]) (fun t => t.reg 1 == 0xFE && t.reg 15 == 0) = true := by decide
/-- T73, T79. -/
theorem test_index : runs 0xF11E ((withRegs [(1, 0x01)]).setIdx 0xFFF) (fun t => t.idx == 0 && t.reg 15 == 0) = true ∧
    runs 0xF129 (withRegs [(1, 0xFF)]) (·.idx == 0x4FB) = true ∧ runs 0xA123 State.reset (·.idx == 0x123) = true := by decide
/-- T82, T84. -/
theorem test_decimal : runs 0xF133 ((withRegs [(1, 0x7B)]).setIdx 0x300)
      (fun t => t.mem.read 0x300 == 1 && t.mem.read 0x301 == 2 && t.mem.read 0x302 == 3) = true ∧
    runs 0xF133 ((withRegs [(1, 0x64)]).setIdx 0xFFE)
      (fun t => t.halted && t.faultCause == 4 && t.ir == 0xF133 && t.pc == 0x202 && t.mem.read 0xFFE == 0) = true := by decide
/-- T85, T87. -/
theorem test_block_store : runs 0xF055 ((withRegs [(0, 0xAA), (1, 0xBB)]).setIdx 0x300)
      (fun t => t.mem.read 0x300 == 0xAA && t.mem.read 0x301 == 0 && t.idx == 0x300) = true ∧
    runs 0xF155 ((withRegs [(0, 0x77)]).setIdx 0xFFF) (fun t => t.halted && t.mem.read 0xFFF == 0) = true := by decide
/-- T89, T90. -/
theorem test_block_load : runs 0xF265 (withMem 0x300 [0x0A, 0x0B, 0x0C, 0x0D] ((withRegs [(3, 0xEE)]).setIdx 0x300))
      (fun t => t.reg 0 == 0x0A && t.reg 2 == 0x0C && t.reg 3 == 0xEE) = true ∧
    runs 0xFF65 State.reset (fun t => t.reg 0 == 0xF0 && t.reg 5 == 0x20 && t.reg 15 == 0xF0) = true := by decide
/-- T100. -/
theorem test_cls : runs 0x00E0 ((withRegs [(15, 1)]).setFb (Framebuffer.clear.xorPixel 5 6 true))
    (fun t => !t.fbOut 389 && t.reg 15 == 1 && t.invalidates == 1) = true := by decide
/-- T104, T115. -/
theorem test_drw : runs 0xD015 (withRegs [(0, 0x3E), (1, 0x1E)])
      (fun t => t.fb[30] == 0xC000000000000003 && t.fb[31] == 0x4000000000000002 && t.fb[0] == 0 && t.reg 15 == 0) = true ∧
    runs 0xD001 (withMem 0x300 [0x80] ((State.reset.setIdx 0x300).setFb (Framebuffer.clear.xorPixel 0 0 true)))
      (fun t => t.fb[0] == 0 && t.reg 15 == 1) = true := by decide
/-- T110, T108. -/
theorem test_drw_bounds : runs 0xD003 (State.reset.setIdx 0xFFE)
      (fun t => t.halted && t.faultCause == 4 && t.invalidates == 0) = true ∧
    runs 0xD000 ((withRegs [(15, 1)]).setIdx 0xFFF) (fun t => !t.halted && t.reg 15 == 0) = true := by decide
/-- T120, T121, T122. -/
theorem test_timers : runs 0xF115 (withRegs [(1, 0x3C)]) (·.dt == 0x3C) = true ∧
    runs 0xF118 (withRegs [(1, 0x02)]) (fun t => t.st == 2 && t.sndActive) = true ∧
    (match exec (.ldVxDt 1) (State.reset.setDt 0x2A) with | .next t => t.reg 1 == 0x2A | _ => false) = true := by decide
/-- T123, T124, T125, T126, T127. -/
theorem test_ticks : ((State.reset.setDt 3).tick.dt = 2) ∧ ((State.reset.setSt 1).tick.sndActive = false) ∧
    (State.reset.tick = State.reset) ∧ (((State.reset.setDt 5).setRun .waitKey).tick.dt = 4) ∧
    (((State.reset.setDt 5).setRun .halt).tick.dt = 5) := by decide
/-- P5, event 4: a tick between two engine steps is a step of its own, PC 206 kept, DT 03 to 02. -/
theorem test_tick_step : (match step (((State.reset.setPc 0x206).setDt 3).schedule [.timerUnit]) with
    | .next t => t.pc == 0x206 && t.dt == 2 && t.ir == 0 | _ => false) = true := by decide
/-- P5, events 8 and 9: the tick, then SE V1,00, which does not skip. -/
theorem test_tick_then_engine :
    (match steps 2 ((withMem 0x206 [0x31, 0x00]
        (((withRegs [(1, 2)]).setPc 0x206).setDt 2)).schedule [.timerUnit, .engine]) with
    | .next t => t.pc == 0x208 && t.dt == 1 && t.turns == [] | _ => false) = true := by decide
/-- T129, T131, T132. -/
theorem test_key_matches : keyMatches (some 5) 0x05 = true ∧ keyMatches none 0x05 = false ∧ keyMatches none 0x00 = false ∧
    keyMatches (some 5) 0x15 = false := by decide
/-- T170. -/
theorem test_reset_step : runs 0x0000 State.reset (fun t => t.halted && t.faultCause == 1 && t.ir == 0 && t.pc == 0x202) = true := by
  decide
/-- T174, third step: the fetch fault leaves PC and IR. -/
theorem test_fetch_fault : (match step (((State.reset.setPc 0x10FE).setIr 0xBFFF).schedule [.engine]) with
    | .next t => t.halted && t.faultCause == 4 && t.pc == 0x10FE && t.ir == 0xBFFF | _ => false) = true := by decide
/-- T173's second word, placed where the empty image's first step fetches, and a PC it cannot be fetched from. -/
theorem test_placed_word : (State.reset.withFetchWord 16 0xF165).fetch = some 0xF165 ∧
    ((State.reset.setPc 0x10FE).withFetchWord 16 0xF165).pc = 0x200 ∧ decodeTableWord 16 0xF165 = some (.ldVxMem 1) := by decide
/-- 20_memory.md R42, R57: the glyph of digit 1 and an image, and another FONT's first byte, as launch leaves them. -/
theorem test_launch : (nextOf (launch [0x12, 0x34])).mem.read 0x005 = 0x20 ∧
    (nextOf (launch [0x12, 0x34])).mem.read 0x201 = 0x34 ∧
    (nextOf (launchWith (Vector.replicate 80 0x77) [])).mem.read 0x000 = 0x77 ∧
    (nextOf (launchWith (Vector.replicate 80 0x77) [])).mem.read 0x050 = 0 := by decide
theorem test_reset_memory_wf : State.reset.mem.wf := by decide

/-! ### Witnesses: for each obligation with hypotheses, values that meet them, one a clause, at the boundaries -/

/-- T67: with a mask of 0 the register is 0 whatever the draw is. -/
theorem test_rnd_masked : (nextOf (exec (.rndVxKk 0xA 0x00) State.reset)).reg 0xA = 0 := by
  simp [nextOf, exec, execRndVxKk]
/-- T136: no key's code is FF, so SKNP skips whatever the slot holds; T131 and T135: no key. -/
theorem test_sknp_ff : (nextOf (exec (.sknpVx 1) (withRegs [(1, 0xFF)]))).pc = 0x202 := by
  have h : ∀ o : Option Nibble, (!keyMatches o 0xFF) = true := by
    intro o
    cases o with
    | none => rfl
    | some k => revert k; decide
  have hr : (withRegs [(1, 0xFF)]).reg 1 = 0xFF := by decide
  simp only [exec, execSknpVx, nextOf, hr, h, State.skipIf]
  decide
/-- T138: no key at the step: the core waits. -/
theorem test_key_wait (s : State) (h : s.keyNow = none) : (nextOf (exec (.ldVxK 3) s)).run = .waitKey := by
  simp [nextOf, exec, execLdVxK, h]
/-- T140: key 0 is a key: the poll writes the register IR names and the core runs. -/
theorem test_poll_key_0 (s : State) (hi : s.ir = 0xF30A) (h : s.keyNow = some 0) :
    (nextOf (pollStep s)).reg 3 = 0 ∧ (nextOf (pollStep s)).run = .run := by
  have hx : fieldX s.ir = 3 := by rw [hi]; decide
  simp [nextOf, pollStep, h, hx, keyByte]

theorem witness_LaunchGivesResetValues :
    (List.replicate 3584 (0x12 : Byte)).length ≤ 3584 ∧ ([] : List Byte).length ≤ 3584 ∧
    (0x4F < 0x50) ∧ (0x50 ≤ 0x50 ∧ 0x50 < 0x200) ∧ (1 < [(0x12 : Byte), 0x00].length) ∧
    (0x200 + [(0x12 : Byte), 0x00].length ≤ 0x202 ∧ 0x202 ≤ 0xFFF) := by
  refine ⟨List.length_replicate.le, ?_⟩; decide
theorem witness_ResetFromAnyState :
    3584 < (List.replicate 3585 (0 : Byte)).length ∧ (List.replicate 3584 (0 : Byte)).length ≤ 3584 :=
  ⟨by rw [List.length_replicate]; decide, List.length_replicate.le⟩
/-- The last fetchable word, JP 200, and the engine's turn. -/
def atTop : State := (withMem 0xFFE [0x12, 0x00] (State.reset.setPc 0xFFE)).schedule [.engine]

theorem witness_StepRunsDecodedInstruction :
    ((atTop.turn = .engine ∧ atTop.run = .run) ∧
      (((State.reset.setRun .waitKey).schedule [.engine]).turn = .engine ∧
        ((State.reset.setRun .waitKey).schedule [.engine]).run = .waitKey)) ∧
    (((State.reset.setPc 0xFFF).schedule [.engine]).turn = .engine ∧
      ((State.reset.setPc 0xFFF).schedule [.engine]).run = .run ∧
      0xFFE < ((State.reset.setPc 0xFFF).schedule [.engine]).pc.toNat) ∧
    (atTop.pc.toNat ≤ 0xFFE ∧ decode (atTop.mem.read 0xFFE ++ atTop.mem.read 0xFFF) = .ok (.jp 0x200)) ∧
    ((State.reset.schedule [.engine]).turn = .engine ∧ (State.reset.schedule [.engine]).pc.toNat ≤ 0xFFE ∧
      ∀ i, decode ((State.reset.schedule [.engine]).mem.read 0x200 ++ (State.reset.schedule [.engine]).mem.read 0x201) ≠
        .ok i) ∧
    (State.reset.live ∧ exec .ret State.reset = .next (nextOf (exec .ret State.reset)) ∧
      ¬ (nextOf (exec .ret State.reset)).live) := by
  refine ⟨by decide, by decide, by decide, ⟨rfl, by decide, fun i => ?_⟩, by decide, rfl, by decide⟩
  rw [show decode ((State.reset.schedule [.engine]).mem.read 0x200 ++
    (State.reset.schedule [.engine]).mem.read 0x201) = .error (.unsupported 0) from by decide]
  exact fun h => nomatch h
theorem witness_UnsupportedWordHalts : State.reset.pc.toNat ≤ 0xFFE ∧
    decode (State.reset.mem.read State.reset.pc.toNat ++ State.reset.mem.read (State.reset.pc.toNat + 1)) =
      .error (.unsupported (State.reset.mem.read State.reset.pc.toNat ++ State.reset.mem.read (State.reset.pc.toNat + 1))) := by
  decide
theorem witness_FaultsArePrecise :
    (State.reset.live ∧ instructionStep State.reset = .next (nextOf (instructionStep State.reset)) ∧
      ¬ (nextOf (instructionStep State.reset)).live ∧ State.reset.pc.toNat ≤ 0xFFE) ∧
    ((State.reset.setPc 0xFFF).live ∧
      instructionStep (State.reset.setPc 0xFFF) = .next (nextOf (instructionStep (State.reset.setPc 0xFFF))) ∧
      ¬ (nextOf (instructionStep (State.reset.setPc 0xFFF))).live ∧ ¬ (State.reset.setPc 0xFFF).pc.toNat ≤ 0xFFE) :=
  ⟨⟨by decide, rfl, by decide, by decide⟩, by decide, rfl, by decide, by decide⟩
theorem witness_FaultsExactlyWhenListed :
    State.reset.live ∧
    faultCondition .ret (withDepth 0) = some .stackUnderflow ∧ faultCondition .ret (withDepth 1) = none ∧
    faultCondition (.call 0x300) (withDepth 16) = some .stackOverflow ∧ faultCondition (.call 0x300) (withDepth 15) = none ∧
    faultCondition (.drwVxVyN 0 0 3) (State.reset.setIdx 0xFFE) = some .memBounds ∧
    faultCondition (.drwVxVyN 0 0 2) (State.reset.setIdx 0xFFE) = none ∧
    faultCondition (.drwVxVyN 0 0 0) (State.reset.setIdx 0xFFFF) = none ∧
    faultCondition (.ldBVx 0) (State.reset.setIdx 0xFFE) = some .memBounds ∧
    faultCondition (.ldBVx 0) (State.reset.setIdx 0xFFD) = none ∧
    faultCondition (.ldMemVx 15) (State.reset.setIdx 0xFF1) = some .memBounds ∧
    faultCondition (.ldMemVx 15) (State.reset.setIdx 0xFF0) = none ∧
    faultCondition (.ldVxMem 0) (State.reset.setIdx 0x1000) = some .memBounds ∧
    faultCondition (.ldVxMem 0) (State.reset.setIdx 0xFFF) = none ∧ faultCondition .cls State.reset = none := by decide
theorem witness_FaultEntryAndHalt : (State.reset.setRun .halt).run = .halt ∧
    step (State.reset.setRun .halt) = .next (State.reset.setRun .halt) := ⟨rfl, rfl⟩
theorem witness_PollTakesKeyOrWaits : ((State.reset.setRun .waitKey).setIr 0xF30A).run = .waitKey := rfl
theorem witness_TickCountsBothTimersDown :
    ((State.reset.setDt 0xFF).live ∧ ((State.reset.setDt 1).setRun .waitKey).live) ∧ ¬ (State.reset.setRun .halt).live := by decide
theorem witness_EitherAgentTakesItsOwnStep :
    ((State.reset.setDt 1).schedule [.timerUnit]).live ∧ ((State.reset.setDt 1).schedule [.timerUnit]).turn = .timerUnit ∧
    (((State.reset.setDt 1).setRun .waitKey).schedule [.engine]).live ∧
    (((State.reset.setDt 1).setRun .waitKey).schedule [.engine]).turn = .engine := by decide
theorem witness_GapIsSomeNumberOfTicks :
    ((State.reset.setSt 0xFF).schedule [.timerUnit, .timerUnit, .engine]).live ∧
    ((State.reset.setSt 0xFF).schedule [.timerUnit, .timerUnit, .engine]).turns = List.replicate 2 .timerUnit ++ [.engine] ∧
    (State.reset.setSt 0xFF).turns = List.replicate 0 .timerUnit ++ [] := by decide
theorem witness_EncodeOfDecode : decode 0x5AB1 = .ok (.seVxVy 0xA 0xB 0x1) := by decide
theorem witness_DecodeFollowsOpcodeMap :
    decode 0x8AB6 = .ok (.shrVx 0xA 0xB) ∧ ((0x8AB6 : Word) &&& (opcodeRow (.shrVx 0 0)).2 = (opcodeRow (.shrVx 0 0)).1) ∧
    ∀ i, (0x8AB8 : Word) &&& (opcodeRow i).2 ≠ (opcodeRow i).1 := by
  refine ⟨by decide, by decide, fun i => ?_⟩
  cases i <;> (simp only [opcodeRow]; decide)
theorem witness_IgnoredBitsDoNotMatter : decode 0x9ABF = .ok (.sneVxVy 0xA 0xB 0xF) ∧ decode 0x8A0E = .ok (.shlVx 0xA 0) := by
  decide
/-- A state of a run with one entry on the stack meets the invariant, as RetPops' last clause asks. -/
theorem witness_RetPops_inv : (withDepth 1).Inv :=
  ⟨by decide, by decide, by decide, by decide, by decide, by decide⟩
theorem witness_RetPops : (withDepth 0).sp.val = 0 ∧ 0 < (withDepth 1).sp.val ∧ 0 < (withDepth 16).sp.val := by decide
theorem witness_CallPushes : (withDepth 16).sp.val = 16 ∧ ((withDepth 15).sp.val < 16 ∧ 14 < 16 ∧ 14 ≠ (withDepth 15).sp.val) ∧
    ((withDepth 0).sp.val < 16 ∧ 15 < 16 ∧ 15 ≠ (withDepth 0).sp.val) := by decide
theorem witness_CallThenReturn :
    ((0 : Fin 16).val < (withDepth 15).sp.val ∧
      exec (.call 0x300) (withDepth 15) = .next (nextOf (exec (.call 0x300) (withDepth 15))) ∧
      (0 : Fin 16).val < (nextOf (exec (.call 0x300) (withDepth 15))).sp.val) ∧
    ((withDepth 15).sp.val < 16 ∧
      (nextOf (exec (.call 0x300) (withDepth 15))).sp = (nextOf (exec (.call 0x300) (withDepth 15))).sp) :=
  ⟨⟨by decide, rfl, by decide⟩, by decide, rfl⟩
theorem witness_flag_writers_x_not_15 : (1 : Nibble) ≠ 15 := by decide
theorem witness_LoadsAndLogic_other_register : ¬ ((2 : Nibble) = 1) ∧ ¬ ((2 : Nibble) = 1 ∨ (2 : Nibble) = 15) := by decide
theorem witness_DecimalStore : 0xFFF < (State.reset.setIdx 0xFFE).idx.toNat + 2 ∧ (State.reset.setIdx 0xFFD).idx.toNat + 2 ≤ 0xFFF ∧
    (0xFFC < (State.reset.setIdx 0xFFD).idx.toNat ∨ (State.reset.setIdx 0xFFD).idx.toNat + 2 < 0xFFC) := by decide
theorem witness_BlockStore_and_BlockLoad :
    0xFFF < (State.reset.setIdx 0xFF1).idx.toNat + (15 : Nibble).toNat ∧
    (State.reset.setIdx 0xFF0).idx.toNat + (15 : Nibble).toNat ≤ 0xFFF ∧ (15 : Nibble).toNat ≤ (15 : Nibble).toNat ∧
    0xFEF < (State.reset.setIdx 0xFF0).idx.toNat ∧ ¬ ((1 : Nibble).toNat ≤ (0 : Nibble).toNat) := by decide
theorem witness_BlockRoundTrip :
    (State.reset.setIdx 0xFF8).idx.toNat + (7 : Nibble).toNat ≤ 0xFFF ∧
    (nextOf (exec (.ldMemVx 7) (State.reset.setIdx 0xFF8))).idx = (State.reset.setIdx 0xFF8).idx := by decide
theorem witness_StoreSeenByNextFetch : 1 ≤ (1 : Nibble).toNat ∧ (State.reset.setIdx 0x200).idx = (State.reset.setIdx 0x200).pc ∧
    (State.reset.setIdx 0x200).idx.toNat + (1 : Nibble).toNat ≤ 0xFFF := by decide
theorem witness_MemoryPrimitives : 0x1000 > 0xFFF ∧ 0xFFF ≤ 0xFFF ∧ 0xFFE ≠ 0xFFF := by decide
theorem witness_DrwBlitsSprite :
    (0 < (3 : Nibble).toNat ∧ 0xFFF < (State.reset.setIdx 0xFFE).idx.toNat + (3 : Nibble).toNat - 1) ∧
    ((0 : Nibble).toNat = 0 ∨ (State.reset.setIdx 0xFFFF).idx.toNat + (0 : Nibble).toNat - 1 ≤ 0xFFF) ∧
    ((2 : Nibble).toNat = 0 ∨ (State.reset.setIdx 0xFFE).idx.toNat + (2 : Nibble).toNat - 1 ≤ 0xFFF) := by decide
theorem witness_BlitPixelByPixel :
    (0 < [(0xFF : Byte), 0xFF].length ∧ 7 < 8 ∧ (0x1F : Byte).toNat + 0 ≤ 31) ∧
    (63 < 64 ∧ 31 < 32 ∧ ∀ r j, r < [(0xFF : Byte)].length → j < 8 → ¬ (63 = ((0 : Byte).toNat + j) % 64 ∧ 31 = (0 : Byte).toNat + r)) ∧
    (blit 0 0 [0x80] (Framebuffer.clear.xorPixel 0 0 true)).2 = true := by
  refine ⟨by decide, ⟨by decide, by decide, fun r j hr hj => ?_⟩, by decide⟩
  simp at hr ⊢
  omega
theorem witness_OutputsPresentState : 63 < 64 ∧ 31 < 32 := by decide
theorem witness_RegistersWrittenOnlyAsListed :
    exec (.subVxVy 1 2) State.reset = .next (nextOf (exec (.subVxVy 1 2) State.reset)) ∧ ¬ mayWrite (.subVxVy 1 2) 2 :=
  ⟨rfl, by simp [mayWrite]⟩
theorem witness_IndexWrittenByThree :
    exec (.addIVx 1) ((withRegs [(1, 1)]).setIdx 0xFFF) = .next (nextOf (exec (.addIVx 1) ((withRegs [(1, 1)]).setIdx 0xFFF))) ∧
    ((withRegs [(1, 1)]).setIdx 0xFFF).idx.toNat ≤ 0xFFF := ⟨rfl, by decide⟩
theorem witness_MemoryWrittenByTwo :
    exec (.ldMemVx 0) ((withRegs [(0, 7)]).setIdx 0xFFF) = .next (nextOf (exec (.ldMemVx 0) ((withRegs [(0, 7)]).setIdx 0xFFF))) ∧
    (nextOf (exec (.ldMemVx 0) ((withRegs [(0, 7)]).setIdx 0xFFF))).mem.read 0xFFF ≠ ((withRegs [(0, 7)]).setIdx 0xFFF).mem.read 0xFFF :=
  ⟨rfl, by decide⟩
/-- FB: a draw that changes it. -/
theorem witness_SeparateSpacesChangedByOwnInstructions :
    State.reset.live ∧ exec (.drwVxVyN 0 0 5) State.reset = .next (nextOf (exec (.drwVxVyN 0 0 5) State.reset)) ∧
    (nextOf (exec (.drwVxVyN 0 0 5) State.reset)).fb ≠ State.reset.fb := ⟨by decide, rfl, by decide⟩
/-- The pulse: a CLS and a DRW that change no pixel pulse, a DRW that faults and a store do not. -/
theorem witness_SeparateSpacesChanged_pulse :
    ((nextOf (exec .cls State.reset)).invalidates = State.reset.invalidates + 1 ∧ (nextOf (exec .cls State.reset)).live) ∧
    ((nextOf (exec (.drwVxVyN 0 0 0) (State.reset.setIdx 0xFFF))).invalidates = State.reset.invalidates + 1 ∧
      (nextOf (exec (.drwVxVyN 0 0 0) (State.reset.setIdx 0xFFF))).live) ∧
    ((nextOf (exec (.drwVxVyN 0 0 3) (State.reset.setIdx 0xFFE))).invalidates = State.reset.invalidates ∧
      ¬ (nextOf (exec (.drwVxVyN 0 0 3) (State.reset.setIdx 0xFFE))).live) ∧
    (nextOf (exec (.ldMemVx 0) (State.reset.setIdx 0xFFF))).invalidates = State.reset.invalidates := by decide
/-- The stack, at both ends of its range: a CALL changes SP and an entry, a RET changes SP. -/
theorem witness_SeparateSpacesChanged_stack :
    ((withDepth 15).live ∧ (nextOf (exec (.call 0x300) (withDepth 15))).sp ≠ (withDepth 15).sp ∧
      (nextOf (exec (.call 0x300) (withDepth 15))).stk ≠ (withDepth 15).stk) ∧
    ((withDepth 1).live ∧ (nextOf (exec .ret (withDepth 1))).sp ≠ (withDepth 1).sp) := by decide
/-- DT and ST: each timer's own instruction changes it. -/
theorem witness_SeparateSpacesChanged_timers :
    (nextOf (exec (.ldDtVx 1) (withRegs [(1, 0xFF)]))).dt ≠ (withRegs [(1, 0xFF)]).dt ∧
    (nextOf (exec (.ldStVx 1) (withRegs [(1, 0xFF)]))).st ≠ (withRegs [(1, 0xFF)]).st := by decide
theorem witness_ProgramCounterAfter :
    (State.reset.live ∧ exec (.jp 0xFFF) State.reset = .next (nextOf (exec (.jp 0xFFF) State.reset)) ∧
      (nextOf (exec (.jp 0xFFF) State.reset)).live) ∧
    (exec .ret State.reset = .next (nextOf (exec .ret State.reset)) ∧ ¬ (nextOf (exec .ret State.reset)).live) :=
  ⟨⟨by decide, rfl, by decide⟩, rfl, by decide⟩
theorem witness_InputsSampledOnce : exec (.rndVxKk 3 0xFF) State.reset = .next (nextOf (exec (.rndVxKk 3 0xFF) State.reset)) := rfl
theorem witness_StepKeepsInvariant : (State.reset.schedule [.engine]).Inv ∧
    step (State.reset.schedule [.engine]) = .next (nextOf (step (State.reset.schedule [.engine]))) ∧
    (State.reset.schedule [.timerUnit]).live ∧ (State.reset.schedule [.timerUnit]).turn = .timerUnit := by
  refine ⟨⟨by decide, by decide, by decide, fun k hk => ?_, by decide, by decide⟩, rfl, by decide, rfl⟩
  exact absurd hk (by simp [State.reset])
theorem witness_LaunchMeetsInvariant :
    launchWith defaultFont [0x12, 0x00] = .next (nextOf (launchWith defaultFont [0x12, 0x00])) := rfl
theorem witness_TerminalStateIsFixed : (State.reset.withFetchWord 16 0x1200).terminal := by decide
theorem witness_DeadStackEntriesUnobservable :
    sameInUse ((withDepth 1).schedule [.engine])
      { (withDepth 1).schedule [.engine] with stk := (withDepth 1).stk.set 1 0xFFFF } ∧
    step ((withDepth 1).schedule [.engine]) = .next (nextOf (step ((withDepth 1).schedule [.engine]))) := by
  refine ⟨⟨rfl, ?_⟩, rfl⟩
  decide

end Sys2Proof.Tests
end

/-!
SUPPORT. Frames compose: what two changes in a row leave unchanged, and the frame of each update the launch and the poll make.
-/

namespace Sys2Proof.Machine

variable {s t u : State}

theorem Same.trans {p : Part} (hst : Same s t p) (htu : Same t u p) : Same s u p := by
  cases p with
  | regs => exact fun r => (htu r).trans (hst r)
  | memory => exact fun a => (htu a).trans (hst a)
  | stack => exact ⟨htu.1.trans hst.1, htu.2.trans hst.2⟩
  | turns => exact ⟨htu.1.trans hst.1, htu.2.trans hst.2⟩
  | idx | pc | delay | sound | screen | pulses | runState | ir | cause | draws | keyReads =>
    exact Eq.trans htu hst

theorem SameExcept.trans {c d : List Part} (hst : SameExcept c s t) (htu : SameExcept d t u) :
    SameExcept (c ++ d) s u := fun p hp =>
  (hst p fun h => hp (List.mem_append_left d h)).trans (htu p fun h => hp (List.mem_append_right c h))

/-- A frame that allows more pieces to change is weaker. -/
theorem SameExcept.mono {c d : List Part} (hcd : c ⊆ d) (h : SameExcept c s t) : SameExcept d s t :=
  fun p hp => h p fun hc => hp (hcd hc)

theorem sameExcept_setReg (s : State) (x : Nibble) (b : Byte) : SameExcept [.regs] s (s.setReg x b) := by
  intro p hp
  cases p <;> simp_all [Same]

theorem sameExcept_setRun (s : State) (r : RunState) : SameExcept [.runState] s (s.setRun r) := by
  intro p hp
  cases p <;> simp_all [Same]

theorem sameExcept_countKeyRead (s : State) : SameExcept [.keyReads] s s.countKeyRead := by
  intro p hp
  cases p <;> simp_all [Same]

end Sys2Proof.Machine

/-!
What the launch leaves in memory, address by address, and with it the whole reset table (10_state.md R35).
-/

namespace Sys2Proof.Machine

/-- Memory as the launch leaves it: FONT at 0x000, IMAGE at 0x200 (R35). -/
def launchMemory (glyphs : Vector Byte 80) (image : List Byte) : Memory :=
  (State.reset.mem.writeList 0 glyphs.toList).writeList 0x200 image

/-- The launch with an image that fits changes the memory of the reset state alone. -/
theorem launchWith_of_fits (glyphs : Vector Byte 80) {image : List Byte} (h : image.length ≤ 3584) :
    launchWith glyphs image = .next (State.reset.setMem (launchMemory glyphs image)) := if_pos h

/-- Past the font an unlisted cell holds zero (R43). -/
theorem Memory.unlisted_of_font_le {a : Nat} (h : 80 ≤ a) : Memory.unlisted a = 0 :=
  List.getD_eq_default font 0 h

/-- Writing, in empty memory, what the cells hold already lists nothing. -/
theorem Memory.writeList_nil_of_unlisted (bytes : List Byte) (a : Nat)
    (h : ∀ k (hk : k < bytes.length), bytes[k] = Memory.unlisted (a + k)) :
    Memory.writeList [] a bytes = [] := by
  induction bytes generalizing a with
  | nil => rfl
  | cons b bs ih =>
    have hb : Memory.write [] a b = [] := if_pos (h 0 (Nat.zero_lt_succ _))
    rw [Memory.writeList, hb]
    refine ih (a + 1) fun k hk => ?_
    rw [Nat.add_right_comm]
    exact h (k + 1) (Nat.succ_lt_succ hk)

/-- The default FONT is what unlisted memory holds, so the empty image leaves nothing listed (R42). -/
theorem launchMemory_default_nil : launchMemory defaultFont [] = [] :=
  Memory.writeList_nil_of_unlisted font 0 fun k hk => by
    rw [Nat.zero_add, Memory.unlisted, List.getD_eq_getElem font 0 hk]

section
variable (glyphs : Vector Byte 80) (image : List Byte)

theorem read_launchMemory_image {k : Nat} (h : k < image.length) :
    (launchMemory glyphs image).read (0x200 + k) = image[k] := by
  rw [launchMemory, Memory.read_writeList, dif_pos ⟨by omega, by omega⟩]
  simp only [Nat.add_sub_cancel_left]

/-- Outside the image memory is as the FONT's write has left it. -/
theorem read_launchMemory_outside_image {a : Nat} (h : a < 0x200 ∨ 0x200 + image.length ≤ a) :
    (launchMemory glyphs image).read a = if ha : a < 80 then glyphs[a] else 0 := by
  rw [launchMemory, Memory.read_writeList, dif_neg (by omega), Memory.read_writeList]
  by_cases ha : a < 80
  · rw [dif_pos ⟨Nat.zero_le a, by simpa using ha⟩, dif_pos ha]
    simp
  · rw [dif_neg (by simpa using ha), dif_neg ha]
    exact Memory.unlisted_of_font_le (Nat.le_of_not_lt ha)

theorem read_launchMemory_font {a : Nat} (h : a < 80) : (launchMemory glyphs image).read a = glyphs[a] := by
  rw [read_launchMemory_outside_image glyphs image (.inl (by omega)), dif_pos h]

theorem read_launchMemory_zero {a : Nat} (hfont : 80 ≤ a) (himage : a < 0x200 ∨ 0x200 + image.length ≤ a) :
    (launchMemory glyphs image).read a = 0 := by
  rw [read_launchMemory_outside_image glyphs image himage, dif_neg (by omega)]
end

/-- Every register is zero after reset (R35). -/
theorem reset_reg (r : Nibble) : State.reset.reg r = 0 := Vector.getElem_replicate r.isLt

/-- Every stack entry is zero after reset (R35). -/
theorem reset_stk (k : Fin 16) : State.reset.stk[k] = 0 := Vector.getElem_replicate k.isLt

/-- Every pixel is off after reset (R35). -/
theorem reset_fbOut (i : Nat) : State.reset.fbOut i = false := Framebuffer.pixel_clear (i % 64) (i / 64)

/-- Settles O1: the launch writes memory alone, so the fields are those of `State.reset`, and memory is read region by region. -/
theorem launchGivesResetValues : Obligations.LaunchGivesResetValues := by
  refine ⟨?_, fun glyphs image hfits => ⟨_, launchWith_of_fits glyphs hfits, rfl, reset_reg, rfl, rfl, rfl, rfl,
    reset_stk, fun i _ => reset_fbOut i, rfl, rfl, rfl, ?_, ?_, ?_, ?_⟩⟩
  · rw [launch, launchWith_of_fits defaultFont (Nat.zero_le _), launchMemory_default_nil]
    rfl
  · exact fun a h => read_launchMemory_font glyphs image h
  · exact fun a hfont himage => read_launchMemory_zero glyphs image hfont (.inl himage)
  · exact fun k h => read_launchMemory_image glyphs image h
  · exact fun a himage _ => read_launchMemory_zero glyphs image (by omega) (.inr himage)

end Sys2Proof.Machine

/-!
The poll step for each answer of the key slot (10_state.md R37).
-/

namespace Sys2Proof.Machine

/-- The state after a poll at which key k is reported: the register IR names takes it and the core runs (R37). -/
def State.takeKey (s : State) (k : Nibble) : State :=
  (s.countKeyRead.setReg (fieldX s.ir) (keyByte k)).setRun .run

theorem pollStep_of_some {s : State} {k : Nibble} (h : s.keyNow = some k) :
    pollStep s = .next (s.takeKey k) := by
  simp only [pollStep, h, State.takeKey]

/-- The poll when no key is reported: only the read of the slot is counted (R37). -/
theorem pollStep_of_none {s : State} (h : s.keyNow = none) : pollStep s = .next s.countKeyRead := by
  simp only [pollStep, h]

/-- A key code keeps its value when widened to a byte (R160). -/
theorem toNat_keyByte (k : Nibble) : (keyByte k).toNat = k.toNat :=
  BitVec.toNat_setWidth_of_le (by decide)

/-- Out of HALT a tick counts both timers down, stopping at 0 (R195). -/
theorem State.toNat_tick_timers {s : State} (h : s.run ≠ .halt) :
    s.tick.dt.toNat = s.dt.toNat - 1 ∧ s.tick.st.toNat = s.st.toNat - 1 := by
  obtain ⟨_, ht⟩ | ⟨hhalt, _⟩ := s.tick_cases
  · rw [ht]
    exact ⟨toNat_countDown s.dt, toNat_countDown s.st⟩
  · exact absurd hhalt h

theorem State.takeKey_reg (s : State) (k r : Nibble) :
    (s.takeKey k).reg r = if r = fieldX s.ir then keyByte k else s.reg r := by
  simp [State.takeKey]

theorem sameExcept_takeKey (s : State) (k : Nibble) :
    SameExcept [.regs, .runState, .keyReads] s (s.takeKey k) := by
  have hframe := ((sameExcept_countKeyRead s).trans (sameExcept_setReg _ (fieldX s.ir) (keyByte k))).trans
    (sameExcept_setRun _ .run)
  exact hframe.mono (by decide)

/-- Settles O8, by the two answers of the key slot. -/
theorem pollTakesKeyOrWaits : Obligations.PollTakesKeyOrWaits := by
  refine ⟨fun s => ?_, fun s hwait => State.toNat_tick_timers (by simp [hwait])⟩
  cases hk : s.keyNow with
  | some k =>
    refine ⟨_, pollStep_of_some hk, ?_, rfl, fun r hr => ?_, sameExcept_takeKey s k⟩
    · exact (congrArg BitVec.toNat ((s.takeKey_reg k _).trans (if_pos rfl))).trans (toNat_keyByte k)
    · exact (s.takeKey_reg k r).trans (if_neg hr)
  | none => exact ⟨_, pollStep_of_none hk, sameExcept_countKeyRead s⟩

end Sys2Proof.Machine

/-!
The rows of the opcode map as facts about a word's fields, and the decoder row by row (30_encoding.md R64, R65).
-/

namespace Sys2Proof.Machine

open Sys2Proof.Laws.MatchesRow (wordOf_and wordXkk_eq_wordOf nibble_and_zero maskF000 maskF00F maskF0FF)

variable {w : Word}

theorem nibble_and_fifteen (x : Nibble) : x &&& 0xF = x := BitVec.and_allOnes

/-- The mask of the rows that fix the top nibble alone keeps that nibble. -/
theorem and_F000 (w : Word) : w &&& 0xF000 = wordOf (fieldOp w) 0 0 0 := by
  conv_lhs => rw [← wordOf_fields w, maskF000, wordOf_and]
  simp only [nibble_and_zero, nibble_and_fifteen]

/-- The mask of family 8 keeps the top and the low nibble. -/
theorem and_F00F (w : Word) : w &&& 0xF00F = wordOf (fieldOp w) 0 0 (fieldN w) := by
  conv_lhs => rw [← wordOf_fields w, maskF00F, wordOf_and]
  simp only [nibble_and_zero, nibble_and_fifteen]

/-- The mask of families E and F keeps the top nibble and the low byte. -/
theorem and_F0FF (w : Word) : w &&& 0xF0FF = wordXkk (fieldOp w) 0 (fieldKk w) := by
  conv_lhs => rw [← wordXkk_fields w, wordXkk_eq_wordOf, maskF0FF, wordOf_and]
  simp only [nibble_and_zero, nibble_and_fifteen, wordXkk_eq_wordOf]

theorem and_F000_of_fieldOp (op : Nibble) (hop : (fieldOp w).toNat = op.toNat) : w &&& 0xF000 = wordOf op 0 0 0 := by
  rw [and_F000, BitVec.eq_of_toNat_eq hop]

theorem and_F00F_of_fields (op n : Nibble) (hop : (fieldOp w).toNat = op.toNat) (hn : (fieldN w).toNat = n.toNat) :
    w &&& 0xF00F = wordOf op 0 0 n := by
  rw [and_F00F, BitVec.eq_of_toNat_eq hop, BitVec.eq_of_toNat_eq hn]

theorem and_F0FF_of_fields (op : Nibble) (kk : Byte) (hop : (fieldOp w).toNat = op.toNat) (hkk : fieldKk w = kk) :
    w &&& 0xF0FF = wordXkk op 0 kk := by
  rw [and_F0FF, BitVec.eq_of_toNat_eq hop, hkk]

theorem fieldOp_of_and_F000 {m : Word} (h : w &&& 0xF000 = m) : fieldOp w = fieldOp m := by
  rw [← h, and_F000, fieldOp_wordOf]

theorem fields_of_and_F00F {m : Word} (h : w &&& 0xF00F = m) : fieldOp w = fieldOp m ∧ fieldN w = fieldN m := by
  rw [← h, and_F00F, fieldOp_wordOf, fieldN_wordOf]
  exact ⟨rfl, rfl⟩

theorem fields_of_and_F0FF {m : Word} (h : w &&& 0xF0FF = m) : fieldOp w = fieldOp m ∧ fieldKk w = fieldKk m := by
  rw [← h, and_F0FF, fieldOp_wordXkk, fieldKk_wordXkk]
  exact ⟨rfl, rfl⟩

theorem and_FFFF (w : Word) : w &&& 0xFFFF = w := BitVec.and_allOnes

/-- The word lies in the instruction's row of the opcode map (R65). -/
abbrev InRow (w : Word) (i : Instr) : Prop := w &&& (opcodeRow i).2 = (opcodeRow i).1

/-- What R65 lets a decoder answer for a word: an instruction in whose row the word lies, or Unsupported with the word. -/
def KeepsToMap (w : Word) : Except DecodeError Instr → Prop
  | .ok i => InRow w i
  | .error e => e = .unsupported w

theorem decodeFamily8_keepsToMap (hop : (fieldOp w).toNat = 8) : KeepsToMap w (decodeFamily8 w) := by
  have hrow (n : Nibble) (hn : (fieldN w).toNat = n.toNat) : w &&& 0xF00F = wordOf 8 0 0 n :=
    and_F00F_of_fields 8 n hop hn
  unfold decodeFamily8
  split
  case h_1 hn => exact hrow 0 hn
  case h_2 hn => exact hrow 1 hn
  case h_3 hn => exact hrow 2 hn
  case h_4 hn => exact hrow 3 hn
  case h_5 hn => exact hrow 4 hn
  case h_6 hn => exact hrow 5 hn
  case h_7 hn => exact hrow 6 hn
  case h_8 hn => exact hrow 7 hn
  case h_9 hn => exact hrow 14 hn
  case h_10 => rfl

theorem decodeFamilyE_keepsToMap (hop : (fieldOp w).toNat = 14) : KeepsToMap w (decodeFamilyE w) := by
  unfold decodeFamilyE
  split_ifs with h1 h2
  · exact and_F0FF_of_fields 14 _ hop h1
  · exact and_F0FF_of_fields 14 _ hop h2
  · rfl

theorem decodeFamilyF_keepsToMap (hop : (fieldOp w).toNat = 15) : KeepsToMap w (decodeFamilyF w) := by
  have hrow (kk : Byte) (hkk : fieldKk w = kk) : w &&& 0xF0FF = wordXkk 15 0 kk :=
    and_F0FF_of_fields 15 kk hop hkk
  unfold decodeFamilyF
  split_ifs with h1 h2 h3 h4 h5 h6 h7 h8 h9
  · exact hrow _ h1
  · exact hrow _ h2
  · exact hrow _ h3
  · exact hrow _ h4
  · exact hrow _ h5
  · exact hrow _ h6
  · exact hrow _ h7
  · exact hrow _ h8
  · exact hrow _ h9
  · rfl

theorem decode_keepsToMap (w : Word) : KeepsToMap w (decode w) := by
  unfold decode
  split_ifs with hcls hret
  · exact (and_FFFF w).trans hcls
  · exact (and_FFFF w).trans hret
  split
  case h_1 => rfl
  case h_2 hop => exact and_F000_of_fieldOp 1 hop
  case h_3 hop => exact and_F000_of_fieldOp 2 hop
  case h_4 hop => exact and_F000_of_fieldOp 3 hop
  case h_5 hop => exact and_F000_of_fieldOp 4 hop
  case h_6 hop => exact and_F000_of_fieldOp 5 hop
  case h_7 hop => exact and_F000_of_fieldOp 6 hop
  case h_8 hop => exact and_F000_of_fieldOp 7 hop
  case h_9 hop => exact decodeFamily8_keepsToMap hop
  case h_10 hop => exact and_F000_of_fieldOp 9 hop
  case h_11 hop => exact and_F000_of_fieldOp 10 hop
  case h_12 hop => exact and_F000_of_fieldOp 11 hop
  case h_13 hop => exact and_F000_of_fieldOp 12 hop
  case h_14 hop => exact and_F000_of_fieldOp 13 hop
  case h_15 hop => exact decodeFamilyE_keepsToMap hop
  case h_16 =>
    have hlt := (fieldOp w).isLt
    simp only [imp_false] at *
    exact decodeFamilyF_keepsToMap (by omega)

/-- A word that decodes lies in the row of its instruction. -/
theorem inRow_of_decode {i : Instr} (h : decode w = .ok i) : InRow w i := by
  have hmap := decode_keepsToMap w
  rwa [h] at hmap

/-- The two exact words have top nibble 0 (R64). -/
theorem ne_fixed_of_fieldOp {op : Nibble} (hop : fieldOp w = op) (hne : op ≠ 0) : w ≠ 0x00E0 ∧ w ≠ 0x00EE := by
  subst hop
  constructor <;> rintro rfl <;> exact hne (by decide)

theorem decode_eq_family8 (hop : fieldOp w = 0x8) : decode w = decodeFamily8 w := by
  obtain ⟨hcls, hret⟩ := ne_fixed_of_fieldOp hop (by decide)
  rw [decode, if_neg hcls, if_neg hret, hop]
  rfl

theorem decode_eq_familyE (hop : fieldOp w = 0xE) : decode w = decodeFamilyE w := by
  obtain ⟨hcls, hret⟩ := ne_fixed_of_fieldOp hop (by decide)
  rw [decode, if_neg hcls, if_neg hret, hop]
  rfl

theorem decode_eq_familyF (hop : fieldOp w = 0xF) : decode w = decodeFamilyF w := by
  obtain ⟨hcls, hret⟩ := ne_fixed_of_fieldOp hop (by decide)
  rw [decode, if_neg hcls, if_neg hret, hop]
  rfl

/-- The row of the decoded instruction is the row the word lies in, so the rows are disjoint (R65). -/
theorem map_opcodeRow_decode {i : Instr} (h : InRow w i) : (decode w).map opcodeRow = .ok (opcodeRow i) := by
  cases i with
  | cls =>
    obtain rfl : w = 0x00E0 := (and_FFFF w).symm.trans h
    rfl
  | ret =>
    obtain rfl : w = 0x00EE := (and_FFFF w).symm.trans h
    rfl
  | jp | call | seVxKk | sneVxKk | seVxVy | ldVxKk | addVxKk | sneVxVy | ldINnn | jpV0Nnn | rndVxKk | drwVxVyN =>
    dsimp only [InRow, opcodeRow] at h
    have hop := fieldOp_of_and_F000 h
    obtain ⟨hcls, hret⟩ := ne_fixed_of_fieldOp hop (by decide)
    rw [decode, if_neg hcls, if_neg hret, hop]
    rfl
  | ldVxVy | orVxVy | andVxVy | xorVxVy | addVxVy | subVxVy | shrVx | subnVxVy | shlVx =>
    dsimp only [InRow, opcodeRow] at h
    obtain ⟨hop, hn⟩ := fields_of_and_F00F h
    rw [decode_eq_family8 hop, decodeFamily8, hn]
    rfl
  | skpVx | sknpVx =>
    dsimp only [InRow, opcodeRow] at h
    obtain ⟨hop, hkk⟩ := fields_of_and_F0FF h
    rw [decode_eq_familyE hop, decodeFamilyE, hkk]
    rfl
  | ldVxDt | ldVxK | ldDtVx | ldStVx | addIVx | ldFVx | ldBVx | ldMemVx | ldVxMem =>
    dsimp only [InRow, opcodeRow] at h
    obtain ⟨hop, hkk⟩ := fields_of_and_F0FF h
    rw [decode_eq_familyF hop, decodeFamilyF, hkk]
    rfl

/-- Settles O13: the decoder keeps to the map, and a word in a row is decoded into that row. -/
theorem decodeFollowsOpcodeMap : Obligations.DecodeFollowsOpcodeMap := by
  refine fun w => ⟨fun i h => inRow_of_decode h, fun i h => ?_, fun hnone => ?_⟩
  · have hrow := map_opcodeRow_decode h
    cases hd : decode w with
    | ok j =>
      rw [hd] at hrow
      exact ⟨j, rfl, Except.ok.inj hrow⟩
    | error e =>
      rw [hd] at hrow
      exact nomatch hrow
  · have hmap := decode_keepsToMap w
    cases hd : decode w with
    | ok i => exact absurd (inRow_of_decode hd) (hnone i)
    | error e =>
      rw [hd] at hmap
      exact congrArg Except.error hmap

end Sys2Proof.Machine

/-!
The encoder and the decoder undo each other, so an instruction is read from its own word and from no other (30_encoding.md R64, R65).
-/

namespace Sys2Proof.Machine

variable {w : Word} {i : Instr}

theorem wordNnn_eq_iff {op : Nibble} {nnn : Addr} : wordNnn op nnn = w ↔ fieldOp w = op ∧ fieldNnn w = nnn := by
  constructor
  · rintro rfl
    exact ⟨fieldOp_wordNnn op nnn, fieldNnn_wordNnn op nnn⟩
  · rintro ⟨rfl, rfl⟩
    exact wordNnn_fields w

theorem wordXkk_eq_iff {op x : Nibble} {kk : Byte} :
    wordXkk op x kk = w ↔ fieldOp w = op ∧ fieldX w = x ∧ fieldKk w = kk := by
  constructor
  · rintro rfl
    exact ⟨fieldOp_wordXkk op x kk, fieldX_wordXkk op x kk, fieldKk_wordXkk op x kk⟩
  · rintro ⟨rfl, rfl, rfl⟩
    exact wordXkk_fields w

theorem wordOf_eq_iff {op x y n : Nibble} :
    wordOf op x y n = w ↔ fieldOp w = op ∧ fieldX w = x ∧ fieldY w = y ∧ fieldN w = n := by
  constructor
  · rintro rfl
    exact ⟨fieldOp_wordOf op x y n, fieldX_wordOf op x y n, fieldY_wordOf op x y n, fieldN_wordOf op x y n⟩
  · rintro ⟨rfl, rfl, rfl, rfl⟩
    exact wordOf_fields w

/-- An instruction's word lies in the instruction's row of the opcode map (R65). -/
theorem inRow_encode (i : Instr) : InRow (encode i) i := by
  cases i with
  | cls | ret => exact and_FFFF _
  | jp nnn | call nnn | ldINnn nnn | jpV0Nnn nnn =>
    exact (and_F000 _).trans (congrArg (wordOf · 0 0 0) (fieldOp_wordNnn _ nnn))
  | seVxKk x kk | sneVxKk x kk | ldVxKk x kk | addVxKk x kk | rndVxKk x kk =>
    exact (and_F000 _).trans (congrArg (wordOf · 0 0 0) (fieldOp_wordXkk _ x kk))
  | seVxVy x y n | sneVxVy x y n | drwVxVyN x y n =>
    exact (and_F000 _).trans (congrArg (wordOf · 0 0 0) (fieldOp_wordOf _ x y n))
  | ldVxVy x y | orVxVy x y | andVxVy x y | xorVxVy x y | addVxVy x y | subVxVy x y | shrVx x y
    | subnVxVy x y | shlVx x y =>
    exact (and_F00F _).trans (congrArg₂ (wordOf · 0 0 ·) (fieldOp_wordOf _ x y _) (fieldN_wordOf _ x y _))
  | skpVx x | sknpVx x | ldVxDt x | ldVxK x | ldDtVx x | ldStVx x | addIVx x
    | ldFVx x | ldBVx x | ldMemVx x | ldVxMem x =>
    exact (and_F0FF _).trans (congrArg₂ (wordXkk · 0 ·) (fieldOp_wordXkk _ x _) (fieldKk_wordXkk _ x _))

/-- A word decodes to an instruction exactly when it is the instruction's encoding. Outside the instruction's row both sides are
false; inside it the row fixes the discriminators, and both sides say that the operands are the word's fields. -/
theorem decode_eq_ok_iff : decode w = .ok i ↔ encode i = w := by
  by_cases hrow : InRow w i
  swap
  · exact iff_of_false (fun h => hrow (inRow_of_decode h)) fun h => hrow (h ▸ inRow_encode i)
  cases i with
  | cls | ret =>
    obtain rfl := (and_FFFF w).symm.trans hrow
    exact iff_of_true rfl rfl
  | jp nnn | call nnn | ldINnn nnn | jpV0Nnn nnn =>
    dsimp only [InRow, opcodeRow] at hrow
    have hop := fieldOp_of_and_F000 hrow
    obtain ⟨hcls, hret⟩ := ne_fixed_of_fieldOp hop (by decide)
    rw [decode, if_neg hcls, if_neg hret, encode, wordNnn_eq_iff, hop]
    simp [fieldOp]
  | seVxKk x kk | sneVxKk x kk | ldVxKk x kk | addVxKk x kk | rndVxKk x kk =>
    dsimp only [InRow, opcodeRow] at hrow
    have hop := fieldOp_of_and_F000 hrow
    obtain ⟨hcls, hret⟩ := ne_fixed_of_fieldOp hop (by decide)
    rw [decode, if_neg hcls, if_neg hret, encode, wordXkk_eq_iff, hop]
    simp [fieldOp]
  | seVxVy x y n | sneVxVy x y n | drwVxVyN x y n =>
    dsimp only [InRow, opcodeRow] at hrow
    have hop := fieldOp_of_and_F000 hrow
    obtain ⟨hcls, hret⟩ := ne_fixed_of_fieldOp hop (by decide)
    rw [decode, if_neg hcls, if_neg hret, encode, wordOf_eq_iff, hop]
    simp [fieldOp]
  | ldVxVy | orVxVy | andVxVy | xorVxVy | addVxVy | subVxVy | shrVx | subnVxVy | shlVx =>
    dsimp only [InRow, opcodeRow] at hrow
    obtain ⟨hop, hn⟩ := fields_of_and_F00F hrow
    rw [decode_eq_family8 hop, decodeFamily8, encode, wordOf_eq_iff, hop, hn]
    simp [fieldOp, fieldN]
  | skpVx | sknpVx =>
    dsimp only [InRow, opcodeRow] at hrow
    obtain ⟨hop, hkk⟩ := fields_of_and_F0FF hrow
    rw [decode_eq_familyE hop, decodeFamilyE, encode, wordXkk_eq_iff, hop, hkk]
    simp [fieldOp, fieldKk]
  | ldVxDt | ldVxK | ldDtVx | ldStVx | addIVx | ldFVx | ldBVx | ldMemVx | ldVxMem =>
    dsimp only [InRow, opcodeRow] at hrow
    obtain ⟨hop, hkk⟩ := fields_of_and_F0FF hrow
    rw [decode_eq_familyF hop, decodeFamilyF, encode, wordXkk_eq_iff, hop, hkk]
    simp [fieldOp, fieldKk]

/-- An instruction is read from its own word and from no other (R65). -/
theorem readExactlyFrom_encode (i : Instr) : ReadExactlyFrom i (encode i) :=
  fun _ => decode_eq_ok_iff.trans eq_comm

end Sys2Proof.Machine

/-!
Control flow (40_control_flow.md): which fields RET, CALL, the jumps and the skips leave unchanged, which value of PC the next fetch
faults at, and the family's statements.
-/

namespace Sys2Proof.Machine

theorem sameExcept_setPc (s : State) (w : Word) : SameExcept [.pc] s (s.setPc w) := by
  intro p hp
  cases p <;> simp_all [Same]

/-- PC and the stack are pieces of their own: writing them leaves every other piece (R16, R18). -/
theorem sameExcept_pc_stack (s : State) (w : Word) (entries : Vector Word 16) (depth : Fin 17) :
    SameExcept [.pc, .stack] s { s with pc := w, stk := entries, sp := depth } := by
  intro p hp
  cases p with
  | pc | stack => simp at hp
  | regs | memory => exact fun _ => rfl
  | turns => exact ⟨rfl, rfl⟩
  | idx | delay | sound | screen | pulses | runState | ir | cause | draws | keyReads => rfl

/-- The entry into a fault writes FAULT_CAUSE and RUN_STATE alone (R185). -/
theorem faultTaken_raise (c : Fault) (s : State) : ∃ t, raise c s = .next t ∧ FaultTaken c s t := by
  refine ⟨_, raise_eq c s, rfl, rfl, fun p hp => ?_⟩
  cases p <;> simp_all [Same]

/-- The fetch faults exactly when one of the two bytes at PC lies outside memory (R44). -/
theorem State.fetch_eq_none_iff (s : State) : s.fetch = none ↔ 0xFFE < s.pc.toNat := by
  obtain ⟨hin, hf⟩ | ⟨hout, hf⟩ := s.fetch_cases
  · exact iff_of_false (by simp [hf]) (Nat.not_lt.2 hin)
  · exact iff_of_true hf hout

theorem toNat_literalAddr (nnn : Addr) : (literalAddr nnn).toNat = nnn.toNat :=
  BitVec.toNat_setWidth_of_le (by decide)

theorem toNat_widen (b : Byte) : (widen b).toNat = b.toNat :=
  BitVec.toNat_setWidth_of_le (by decide)

/-- The target of JP V0,nnn is at most 0xFFF + 0xFF, so the 16-bit sum does not wrap (R87). -/
theorem toNat_literalAddr_add_widen (nnn : Addr) (b : Byte) :
    (literalAddr nnn + widen b).toNat = nnn.toNat + b.toNat := by
  rw [BitVec.toNat_add, toNat_literalAddr, toNat_widen]
  omega

/-- Settles O17, by the two answers of RET. -/
theorem retPops : Obligations.RetPops := by
  refine ⟨readExactlyFrom_encode .ret, fun s => ?_⟩
  obtain ⟨hempty, hret⟩ | ⟨hused, hret⟩ := execRet_cases s
  · rw [hret]
    exact ⟨fun _ => faultTaken_raise .stackUnderflow s, fun h => absurd hempty h.ne'⟩
  · refine ⟨fun h => absurd h hused.ne', fun _ => ⟨_, hret, rfl, rfl, rfl, sameExcept_pc_stack s _ s.stk _, fun hinv => ?_,
      State.fetch_eq_none_iff _⟩⟩
    exact hinv.stkBound ⟨s.sp.val - 1, by omega⟩ (Nat.sub_lt hused Nat.one_pos)

/-- Settles O18: both jumps write PC alone, and the next fetch tests the value written. -/
theorem jumpsSetPc : Obligations.JumpsSetPc := by
  refine fun nnn s => ⟨⟨readExactlyFrom_encode (.jp nnn), _, rfl, toNat_literalAddr nnn, sameExcept_setPc s _, ?_⟩,
    readExactlyFrom_encode (.jpV0Nnn nnn), _, rfl, toNat_literalAddr_add_widen nnn _, sameExcept_setPc s _, ?_⟩
  · rw [State.fetch_eq_none_iff, State.setPc_pc, toNat_literalAddr]
    omega
  · rw [State.fetch_eq_none_iff, State.setPc_pc, toNat_literalAddr_add_widen]

/-- Settles O19, by the two answers of CALL. -/
theorem callPushes : Obligations.CallPushes := by
  refine fun nnn s => ⟨readExactlyFrom_encode (.call nnn), ?_⟩
  obtain ⟨hfull, hcall⟩ | ⟨hroom, hcall⟩ := execCall_cases nnn s
  · rw [hcall]
    exact ⟨fun _ => faultTaken_raise .stackOverflow s, fun h => absurd hfull h.ne⟩
  · exact ⟨fun h => absurd h hroom.ne, fun _ => ⟨_, hcall, rfl, toNat_literalAddr nnn, Vector.getElem_set_self hroom,
      fun k hk hne => Vector.getElem_set_ne hroom hk hne.symm, sameExcept_pc_stack s _ _ _⟩⟩

/-- A skip adds 2 to the advanced PC when its condition holds and changes nothing else (R88). -/
theorem skipIf_pc_and_frame (s : State) {c : Bool} {p : Prop} [Decidable p] (hc : c = true ↔ p) :
    ∃ t, (.next (s.skipIf c) : Result) = .next t ∧ t.pc = (if p then s.pc + 2 else s.pc) ∧ SameExcept [.pc] s t :=
  ⟨_, rfl, if_congr hc rfl rfl, sameExcept_setPc s _⟩

/-- Settles O21: each of the four is a skip on its own condition. -/
theorem registerSkips : Obligations.RegisterSkips := fun x y lo kk s =>
  ⟨⟨readExactlyFrom_encode (.seVxKk x kk), skipIf_pc_and_frame s beq_iff_eq⟩,
   ⟨readExactlyFrom_encode (.sneVxKk x kk), skipIf_pc_and_frame s bne_iff_ne⟩,
   ⟨readExactlyFrom_encode (.seVxVy x y lo), skipIf_pc_and_frame s beq_iff_eq⟩,
   ⟨readExactlyFrom_encode (.sneVxVy x y lo), skipIf_pc_and_frame s bne_iff_ne⟩⟩

end Sys2Proof.Machine

/-!
Register loads and the ALU (41_load_and_alu.md): what writing one register, or a flag and then a register, leaves unchanged, the
values and flags as numbers, and the family's statements.
-/

namespace Sys2Proof.Machine

variable (s : State) (x : Nibble)

theorem State.setReg_reg_self (b : Byte) : (s.setReg x b).reg x = b :=
  (s.setReg_reg x x b).trans (if_pos rfl)

/-- Writing V[x] changes no other register, VF included, and no other piece of the state. -/
theorem setReg_frame (b : Byte) :
    SameRegsBut (· = x) s (s.setReg x b) ∧ SameExcept [.regs] s (s.setReg x b) :=
  ⟨fun r hr => (s.setReg_reg x r b).trans (if_neg hr), sameExcept_setReg s x b⟩

/-- The result is the second of the two writes, so it stands in V[x] even when x = 15 (R100). -/
theorem State.setFlagThenReg_reg_self (c : Bool) (b : Byte) : (s.setFlagThenReg x c b).reg x = b :=
  (s.setFlagThenReg_reg x x c b).trans (if_pos rfl)

theorem State.setFlagThenReg_reg_vf {x : Nibble} (hx : x ≠ vf) (c : Bool) (b : Byte) :
    (s.setFlagThenReg x c b).reg vf = flagByte c :=
  (s.setFlagThenReg_reg x vf c b).trans ((if_neg hx.symm).trans (if_pos rfl))

/-- A flag-writing instruction changes no register but V[x] and VF, and no other piece of the state. -/
theorem setFlagThenReg_frame (c : Bool) (b : Byte) :
    SameRegsBut (fun r => r = x ∨ r = vf) s (s.setFlagThenReg x c b) ∧
      SameExcept [.regs] s (s.setFlagThenReg x c b) := by
  refine ⟨fun r hr => ?_, ((sameExcept_setReg s vf (flagByte c)).trans (sameExcept_setReg _ x b)).mono (by decide)⟩
  obtain ⟨hx, hvf⟩ := not_or.1 hr
  exact (s.setFlagThenReg_reg x r c b).trans ((if_neg hx).trans (if_neg hvf))

section Values

variable (a b : Byte)

/-- Byte subtraction is subtraction of the unsigned values modulo 256 (R108, R110). -/
theorem toNat_byte_sub : ((a - b).toNat : Int) = (a.toNat - b.toNat : Int) % 256 := by
  have hb : b.toNat < 256 := b.isLt
  rw [BitVec.toNat_sub]
  omega

theorem toNat_byte_ushiftRight_one : (a >>> 1).toNat = a.toNat / 2 :=
  (BitVec.toNat_ushiftRight a 1).trans (Nat.shiftRight_eq_div_pow a.toNat 1)

theorem toNat_byte_shiftLeft_one : (a <<< 1).toNat = a.toNat * 2 % 256 :=
  BitVec.toNat_shiftLeft.trans (congrArg (· % 256) (Nat.shiftLeft_eq a.toNat 1))

theorem flagByte_decide (p : Prop) [Decidable p] : flagByte (decide p) = if p then 1 else 0 :=
  if_congr decide_eq_true_iff rfl rfl

theorem toNat_flagByte (c : Bool) : (flagByte c).toNat = c.toNat := by
  cases c <;> rfl

/-- SHR's flag is the low bit of the operand (R109). -/
theorem toNat_shrFlag : (flagByte (shrFlag a)).toNat = a.toNat % 2 := by
  rw [toNat_flagByte, shrFlag, BitVec.getLsbD, Nat.toNat_testBit, pow_zero, Nat.div_one]

/-- SHL's flag is the high bit of the operand (R111). -/
theorem toNat_shlFlag : (flagByte (shlFlag a)).toNat = a.toNat / 128 := by
  have hbit : a.toNat / 128 < 2 := Nat.div_lt_of_lt_mul a.isLt
  rw [toNat_flagByte, shlFlag, BitVec.getLsbD, Nat.toNat_testBit]
  exact Nat.mod_eq_of_lt hbit

end Values

/-- Settles O22: each of the three writes V[x] alone. -/
theorem loadsAndAddImmediate : Obligations.LoadsAndAddImmediate := by
  refine fun x y kk s =>
    ⟨⟨readExactlyFrom_encode (.ldVxKk x kk), _, rfl, s.setReg_reg_self x _, setReg_frame s x _⟩,
     ⟨readExactlyFrom_encode (.addVxKk x kk), _, rfl, ?_, setReg_frame s x _⟩,
     ⟨readExactlyFrom_encode (.ldVxVy x y), _, rfl, s.setReg_reg_self x _, setReg_frame s x _⟩⟩
  rw [State.setReg_reg_self]
  exact BitVec.toNat_add (s.reg x) kk

/-- Settles O23: each of the three writes V[x] alone, with a byte operation that acts bit by bit. -/
theorem logicOperations : Obligations.LogicOperations := by
  refine fun x y s =>
    ⟨⟨readExactlyFrom_encode (.orVxVy x y), _, rfl, fun k _ => ?_, setReg_frame s x _⟩,
     ⟨readExactlyFrom_encode (.andVxVy x y), _, rfl, fun k _ => ?_, setReg_frame s x _⟩,
     ⟨readExactlyFrom_encode (.xorVxVy x y), _, rfl, fun k _ => ?_, setReg_frame s x _⟩⟩
  · rw [State.setReg_reg_self, BitVec.getLsbD_or]
  · rw [State.setReg_reg_self, BitVec.getLsbD_and]
  · rw [State.setReg_reg_self, BitVec.getLsbD_xor]

/-- Settles O24: the flag is the carry of the sum written. -/
theorem addSetsCarry : Obligations.AddSetsCarry := by
  refine fun x y s => ⟨readExactlyFrom_encode (.addVxVy x y), _, rfl, ?_, fun hx => ?_, setFlagThenReg_frame s x _ _⟩
  · rw [State.setFlagThenReg_reg_self]
    exact BitVec.toNat_add (s.reg x) (s.reg y)
  · exact (s.setFlagThenReg_reg_vf hx _ _).trans (flagByte_decide _)

/-- Settles O25: the flag is the strict comparison of the old operands. -/
theorem subSetsStrictFlag : Obligations.SubSetsStrictFlag := by
  refine fun x y s => ⟨readExactlyFrom_encode (.subVxVy x y), _, rfl, ?_, fun hx => ?_, setFlagThenReg_frame s x _ _⟩
  · rw [State.setFlagThenReg_reg_self]
    exact toNat_byte_sub (s.reg x) (s.reg y)
  · exact (s.setFlagThenReg_reg_vf hx _ _).trans (flagByte_decide _)

/-- Settles O26: the flag is the low bit of the old V[x], and the ignored y plays no part. -/
theorem shrHalves : Obligations.ShrHalves := by
  refine fun x y s => ⟨readExactlyFrom_encode (.shrVx x y), _, rfl, ?_, fun hx => ?_, setFlagThenReg_frame s x _ _⟩
  · rw [State.setFlagThenReg_reg_self]
    exact toNat_byte_ushiftRight_one (s.reg x)
  · rw [State.setFlagThenReg_reg_vf s hx]
    exact toNat_shrFlag (s.reg x)

/-- Settles O27: the flag is the non-strict comparison of the old operands. -/
theorem subnSetsNonStrictFlag : Obligations.SubnSetsNonStrictFlag := by
  refine fun x y s => ⟨readExactlyFrom_encode (.subnVxVy x y), _, rfl, ?_, fun hx => ?_, setFlagThenReg_frame s x _ _⟩
  · rw [State.setFlagThenReg_reg_self]
    exact toNat_byte_sub (s.reg y) (s.reg x)
  · exact (s.setFlagThenReg_reg_vf hx _ _).trans (flagByte_decide _)

/-- Settles O28: the flag is the high bit of the old V[x], and the ignored y plays no part. -/
theorem shlDoubles : Obligations.ShlDoubles := by
  refine fun x y s => ⟨readExactlyFrom_encode (.shlVx x y), _, rfl, ?_, fun hx => ?_, setFlagThenReg_frame s x _ _⟩
  · rw [State.setFlagThenReg_reg_self]
    exact toNat_byte_shiftLeft_one (s.reg x)
  · rw [State.setFlagThenReg_reg_vf s hx]
    exact toNat_shlFlag (s.reg x)

end Sys2Proof.Machine

/-!
The index register and the memory instructions (42_index_and_memory.md): what writing I, memory or a run of registers leaves
unchanged, the values of I as numbers, the block store and the block load in bounds and out of them, and the family's statements.
-/

namespace Sys2Proof.Machine

theorem sameExcept_setIdx (s : State) (w : Word) : SameExcept [.idx] s (s.setIdx w) := by
  intro p hp
  cases p <;> simp_all [Same]

theorem sameExcept_setMem (s : State) (m : Memory) : SameExcept [.memory] s (s.setMem m) := by
  intro p hp
  cases p <;> simp_all [Same]

theorem sameExcept_setRegList (s : State) (k : Nat) (bytes : List Byte) :
    SameExcept [.regs] s (s.setRegList k bytes) := by
  intro p hp
  cases p <;> simp_all [Same]

theorem toNat_indexSum (i : Word) (a : Byte) : (indexSum i a).toNat = (i.toNat + a.toNat) % 4096 := by
  have hlt : (i.toNat + a.toNat) % 4096 < 4096 := Nat.mod_lt _ (by decide)
  rw [indexSum, BitVec.toNat_ofNat]
  exact Nat.mod_eq_of_lt (hlt.trans (by decide))

/-- Five times a byte is at most 1275, so the 16-bit product does not wrap (R122). -/
theorem toNat_glyphAddr (a : Byte) : (glyphAddr a).toNat = a.toNat * 5 := by
  have ha : a.toNat < 256 := a.isLt
  rw [glyphAddr, BitVec.toNat_mul, toNat_widen]
  exact Nat.mod_eq_of_lt (show a.toNat * 5 < 65536 by omega)

/-- Settles O30: each of the three writes I alone. -/
theorem indexWrites : Obligations.IndexWrites := fun nnn x s =>
  ⟨⟨readExactlyFrom_encode (.ldINnn nnn), _, rfl, toNat_literalAddr nnn, sameExcept_setIdx s _⟩,
   ⟨readExactlyFrom_encode (.addIVx x), _, rfl, toNat_indexSum s.idx (s.reg x), sameExcept_setIdx s _⟩,
   ⟨readExactlyFrom_encode (.ldFVx x), _, rfl, toNat_glyphAddr (s.reg x), sameExcept_setIdx s _⟩⟩

/-- A block of n + 1 bytes is in bounds exactly when its last address is (R126). -/
theorem inMemory_succ_iff {a n : Nat} : inMemory a (n + 1) ↔ a + n ≤ 0xFFF := by
  simp only [inMemory]
  omega

section Store

variable {s : State} {bytes : List Byte} {n : Nat}

/-- A store whose last address lies above 0xFFF takes MEM_BOUNDS and writes nothing (R126). -/
theorem storeAtIndex_faults (hlen : bytes.length = n + 1) (hout : 0xFFF < s.idx.toNat + n) :
    ∃ t, storeAtIndex bytes s = .next t ∧ FaultTaken .memBounds s t := by
  obtain ⟨hin, _⟩ | ⟨_, hstore⟩ := storeAtIndex_cases bytes s
  · rw [hlen, inMemory_succ_iff] at hin
    exact absurd hin hout.not_ge
  · rw [hstore]
    exact faultTaken_raise .memBounds s

/-- A store that ends inside memory puts byte k of the block at I + k and changes nothing else (R48). -/
theorem storeAtIndex_stores (hlen : bytes.length = n + 1) (hin : s.idx.toNat + n ≤ 0xFFF) :
    ∃ t, storeAtIndex bytes s = .next t ∧
      (∀ k (hk : k < bytes.length), t.mem.read (s.idx.toNat + k) = bytes[k]) ∧
      (∀ a, a < s.idx.toNat ∨ s.idx.toNat + n < a → t.mem.read a = s.mem.read a) ∧
      SameExcept [.memory] s t := by
  obtain ⟨_, hstore⟩ | ⟨hout, _⟩ := storeAtIndex_cases bytes s
  · refine ⟨_, hstore, fun k hk => ?_, fun a ha => ?_, sameExcept_setMem s _⟩
    · rw [State.setMem_mem, Memory.read_writeList, dif_pos ⟨by omega, by omega⟩]
      simp only [Nat.add_sub_cancel_left]
    · rw [State.setMem_mem, Memory.read_writeList, dif_neg (by omega)]
  · rw [hlen, inMemory_succ_iff] at hout
    exact absurd hin hout

end Store

/-- A decimal digit keeps its value as a byte (R123). -/
theorem toNat_ofNat_digit {d : Nat} (h : d < 10) : (BitVec.ofNat 8 d).toNat = d :=
  (BitVec.toNat_ofNat d 8).trans (Nat.mod_eq_of_lt (h.trans (by decide)))

/-- Settles O31: the block stored is the list of the three digits. -/
theorem decimalStore : Obligations.DecimalStore := by
  intro x s
  have hlen : (decimalDigits (s.reg x)).length = 3 := rfl
  refine ⟨readExactlyFrom_encode (.ldBVx x), storeAtIndex_faults hlen, fun hin => ?_⟩
  obtain ⟨t, hstore, hbytes, hframe⟩ := storeAtIndex_stores hlen hin
  have hbyte : (s.reg x).toNat < 256 := (s.reg x).isLt
  refine ⟨t, hstore, ?_, ?_, ?_, hframe⟩
  · exact (congrArg BitVec.toNat (hbytes 0 (by omega))).trans (toNat_ofNat_digit (by omega))
  · exact (congrArg BitVec.toNat (hbytes 1 (by omega))).trans (toNat_ofNat_digit (by omega))
  · exact (congrArg BitVec.toNat (hbytes 2 (by omega))).trans (toNat_ofNat_digit (by omega))

theorem State.length_regList (s : State) (n : Nat) : (s.regList n).length = n := by
  simp [State.regList]

/-- Entry r of the registers' list is V[r] (R124). -/
theorem State.getElem_regList (s : State) {n : Nat} (r : Nibble) (h : r.toNat < (s.regList n).length) :
    (s.regList n)[r.toNat] = s.reg r := by
  simp [State.regList]

/-- Settles O32: the block stored is the list of V0..Vx. -/
theorem blockStore : Obligations.BlockStore := by
  intro x s
  have hlen : (s.regList (blockCount x)).length = x.toNat + 1 := s.length_regList _
  refine ⟨readExactlyFrom_encode (.ldMemVx x), storeAtIndex_faults hlen, fun hin => ?_⟩
  obtain ⟨t, hstore, hbytes, hframe⟩ := storeAtIndex_stores hlen hin
  refine ⟨t, hstore, fun r hr => ?_, hframe⟩
  have hlt : r.toNat < (s.regList (blockCount x)).length := by omega
  exact (hbytes r.toNat hlt).trans (s.getElem_regList r hlt)

/-- A block of n bytes loaded from V0 on: V[r] for r < n is the byte r of the block, every other register as before (R125). -/
theorem State.setRegList_range_reg (s : State) {n : Nat} (hn : n ≤ 16) (f : Nat → Byte) (r : Nibble) :
    (s.setRegList 0 ((List.range n).map f)).reg r = if r.toNat < n then f r.toNat else s.reg r := by
  rw [State.setRegList_reg _ _ _ _ (by simpa using hn)]
  simp

/-- Settles O33, by the two answers of LD Vx,[I]. -/
theorem blockLoad : Obligations.BlockLoad := by
  refine fun x s => ⟨readExactlyFrom_encode (.ldVxMem x), ?_⟩
  obtain ⟨hin, hload⟩ | ⟨hout, hload⟩ := execLdVxMem_cases x s
  · have hlast := inMemory_succ_iff.1 hin
    have hreg := s.setRegList_range_reg x.isLt fun k => s.mem.read (s.idx.toNat + k)
    refine ⟨fun h => absurd hlast h.not_ge, fun _ => ⟨_, hload, fun r hr => ?_, fun r hr => ?_, sameExcept_setRegList s 0 _⟩⟩
    · exact (hreg r).trans (if_pos (Nat.lt_succ_of_le hr))
    · exact (hreg r).trans (if_neg fun h => hr (Nat.le_of_lt_succ h))
  · rw [hload]
    exact ⟨fun _ => faultTaken_raise .memBounds s, fun h => absurd (inMemory_succ_iff.2 h) hout⟩

end Sys2Proof.Machine

/-!
The display (43_display.md): what a whole sprite does to the pixels inside and outside its rows and to the collision bit, and the
family's statements.
-/

namespace Sys2Proof.Machine

/-- A row on the screen is drawn before the rows below it (R142). -/
theorem blitRows_cons_of_le (ox : Byte) {ty : Nat} (h : ty ≤ 31) (row : Byte) (rows : List Byte) (acc : Framebuffer × Bool) :
    blitRows ox ty (row :: rows) acc = blitRows ox (ty + 1) rows (blitRow ox ty row acc) :=
  if_neg h.not_gt

/-- Rows that start below the screen are clipped (R144). -/
theorem blitRows_of_gt (ox : Byte) {ty : Nat} (h : 31 < ty) (rows : List Byte) (acc : Framebuffer × Bool) :
    blitRows ox ty rows acc = acc := by
  cases rows with
  | nil => rfl
  | cons row rows => exact if_pos h

/-- Drawing one row keeps the pixels of every other row (R142). -/
theorem pixel_blitRow_of_ne (ox : Byte) {ty : Nat} (hty : ty ≤ 31) (row : Byte) (acc : Framebuffer × Bool) (x : Nat)
    {y : Nat} (hy : y ≠ ty) : (blitRow ox ty row acc).1.pixel x y = acc.1.pixel x y := by
  obtain ⟨-, hrow, -⟩ := blitRow_spec ox ty row (by omega) acc.1 acc.2
  exact hrow x y fun _ _ h => hy h.2

/-- The rows change no pixel outside their spans (R142). -/
theorem pixel_blitRows_of_outside (ox : Byte) (ty : Nat) (rows : List Byte) (acc : Framebuffer × Bool) {x y : Nat}
    (hout : ∀ r j, r < rows.length → j < 8 → ¬ (x = (ox.toNat + j) % 64 ∧ y = ty + r)) :
    (blitRows ox ty rows acc).1.pixel x y = acc.1.pixel x y := by
  induction rows generalizing ty acc with
  | nil => rfl
  | cons row rows ih =>
    obtain hty | hty := Nat.lt_or_ge 31 ty
    · rw [blitRows_of_gt ox hty]
    · obtain ⟨-, hrow, -⟩ := blitRow_spec ox ty row (by omega) acc.1 acc.2
      rw [blitRows_cons_of_le ox hty]
      refine (ih (ty + 1) _ fun r j hr hj h => ?_).trans (hrow x y fun j hj => hout 0 j (Nat.succ_pos _) hj)
      exact hout (r + 1) j (Nat.succ_lt_succ hr) hj ⟨h.1, by omega⟩

/-- A pixel inside the span of row r is the old one XOR the row's sprite bit: the rows above and below r do not touch it
(R142). -/
theorem pixel_blitRows_of_inside (ox : Byte) (ty : Nat) (rows : List Byte) (acc : Framebuffer × Bool) (r : Nat)
    (hr : r < rows.length) {j : Nat} (hj : j < 8) (hon : ty + r ≤ 31) :
    (blitRows ox ty rows acc).1.pixel ((ox.toNat + j) % 64) (ty + r) =
      (acc.1.pixel ((ox.toNat + j) % 64) (ty + r) != spriteBit rows[r] j) := by
  induction rows generalizing ty acc r with
  | nil => exact absurd hr (Nat.not_lt_zero r)
  | cons row rows ih =>
    have hty : ty ≤ 31 := by omega
    rw [blitRows_cons_of_le ox hty]
    cases r with
    | zero =>
      obtain ⟨hrow, -, -⟩ := blitRow_spec ox ty row (by omega) acc.1 acc.2
      exact (pixel_blitRows_of_outside ox (ty + 1) rows _ fun _ _ _ _ h => by omega).trans (hrow j hj)
    | succ r =>
      have hbelow := ih (ty + 1) (blitRow ox ty row acc) r (Nat.lt_of_succ_lt_succ hr) (by omega)
      rw [pixel_blitRow_of_ne ox hty row acc _ (by omega), Nat.add_right_comm] at hbelow
      exact hbelow

/-- The rows set the collision bit exactly when a sprite bit meets an on pixel of the screen before the first row: a row's
pixels are still the old ones when its turn comes (R145). -/
theorem blitRows_collides_iff (ox : Byte) (ty : Nat) (rows : List Byte) (acc : Framebuffer × Bool) :
    (blitRows ox ty rows acc).2 = true ↔
      acc.2 = true ∨ ∃ (r : Nat) (hr : r < rows.length) (j : Nat), j < 8 ∧ ty + r ≤ 31 ∧
        spriteBit rows[r] j = true ∧ acc.1.pixel ((ox.toNat + j) % 64) (ty + r) = true := by
  induction rows generalizing ty acc with
  | nil => simp [blitRows]
  | cons row rows ih =>
    obtain hty | hty := Nat.lt_or_ge 31 ty
    · rw [blitRows_of_gt ox hty]
      exact (or_iff_left fun ⟨r, _, j, _, hon, _⟩ => by omega).symm
    · obtain ⟨-, -, hrow⟩ := blitRow_spec ox ty row (by omega) acc.1 acc.2
      have hshift (r : Nat) : ty + 1 + r = ty + (r + 1) := by omega
      have hkeep (r j : Nat) : (blitRow ox ty row acc).1.pixel ((ox.toNat + j) % 64) (ty + (r + 1)) =
          acc.1.pixel ((ox.toNat + j) % 64) (ty + (r + 1)) := pixel_blitRow_of_ne ox hty row acc _ (by omega)
      rw [blitRows_cons_of_le ox hty, ih, hrow, or_assoc]
      simp only [hshift, hkeep, List.length_cons, Nat.exists_lt_succ_left', List.getElem_cons_zero,
        List.getElem_cons_succ, Nat.add_zero, hty, true_and]

/-- Settles O39: the blit draws its rows from row oy on, with no collision so far. -/
theorem blitPixelByPixel : Obligations.BlitPixelByPixel := by
  refine fun ox oy rows f => ⟨fun r hr j hj hon => ?_, fun x y _ _ hout => ?_, ?_⟩
  · exact pixel_blitRows_of_inside ox oy.toNat rows (f, false) r hr hj hon
  · exact pixel_blitRows_of_outside ox oy.toNat rows (f, false) hout
  · exact (blitRows_collides_iff ox oy.toNat rows (f, false)).trans (or_iff_right Bool.false_ne_true)

end Sys2Proof.Machine

/-!
Timers and keys (44_timers_and_keys.md): when a key answers the whole byte, what reading the key slot and skipping leave unchanged,
the frames of the two timers, and the family's statements.
-/

namespace Sys2Proof.Machine

theorem sameExcept_setDt (s : State) (b : Byte) : SameExcept [.delay] s (s.setDt b) := by
  intro p hp
  cases p <;> simp_all [Same]

theorem sameExcept_setSt (s : State) (b : Byte) : SameExcept [.sound] s (s.setSt b) := by
  intro p hp
  cases p <;> simp_all [Same]

/-- A reported key is compared with all eight bits of the register, so a byte above 15 matches no key (R160). -/
theorem keyMatches_some_iff (k : Nibble) (a : Byte) : keyMatches (some k) a = true ↔ a.toNat = k.toNat := by
  rw [keyMatches, beq_iff_eq, ← BitVec.toNat_inj, toNat_keyByte]

theorem not_keyMatches_some_iff (k : Nibble) (a : Byte) : (!keyMatches (some k) a) = true ↔ a.toNat ≠ k.toNat := by
  rw [Bool.not_eq_true', ← Bool.not_eq_true, keyMatches_some_iff]

/-- A key skip reads the key slot once and writes PC, whatever its condition. -/
theorem sameExcept_countKeyRead_skipIf (s : State) (c : Bool) :
    SameExcept [.pc, .keyReads] s (s.countKeyRead.skipIf c) :=
  ((sameExcept_countKeyRead s).trans (sameExcept_setPc _ _)).mono (by decide)

/-- Settles O42: with a key reported, each skip tests the whole byte; with none, SKP's condition is false and SKNP's true. -/
theorem keySkips : Obligations.KeySkips := by
  refine fun x s => ⟨⟨readExactlyFrom_encode (.skpVx x), _, rfl, ?_, sameExcept_countKeyRead_skipIf s _⟩,
    readExactlyFrom_encode (.sknpVx x), _, rfl, ?_, sameExcept_countKeyRead_skipIf s _⟩
  · cases s.keyNow with
    | some k => exact if_congr (keyMatches_some_iff k (s.reg x)) rfl rfl
    | none => rfl
  · cases s.keyNow with
    | some k => exact if_congr (not_keyMatches_some_iff k (s.reg x)) rfl rfl
    | none => rfl

/-- Settles O44: each of the three copies one byte, and its frame is that of the one field it writes. -/
theorem timerAccess : Obligations.TimerAccess := by
  refine fun x s => ⟨⟨readExactlyFrom_encode (.ldVxDt x), _, rfl, s.setReg_reg_self x s.dt, setReg_frame s x s.dt⟩,
    ⟨readExactlyFrom_encode (.ldDtVx x), _, rfl, s.setDt_dt (s.reg x), sameExcept_setDt s (s.reg x)⟩,
    readExactlyFrom_encode (.ldStVx x), _, rfl, s.setSt_st (s.reg x), sameExcept_setSt s (s.reg x)⟩

end Sys2Proof.Machine

/-!
Faults and ticks (60_exceptions.md): the two ways an instruction can end, the instruction step branch by branch, the state out of
which its fault is taken, the frame of a tick, and the family's statements.
-/

namespace Sys2Proof.Machine

/-- How a meaning ends: in a state that is still live, or in a fault taken out of the state it started in. -/
def LiveOrRaised (s : State) (r : Result) : Prop := (∃ t, r = .next t ∧ t.live) ∨ ∃ c, r = raise c s

section Execute

variable {s : State} (hs : s.live)
include hs

theorem storeAtIndex_liveOrRaised (bytes : List Byte) : LiveOrRaised s (storeAtIndex bytes s) := by
  obtain ⟨_, h⟩ | ⟨_, h⟩ := storeAtIndex_cases bytes s
  · exact .inl ⟨_, h, hs⟩
  · exact .inr ⟨_, h⟩

/-- The key wait leaves RUN for WAIT_KEY, which is no HALT (R165). -/
theorem execLdVxK_liveOrRaised (x : Nibble) : LiveOrRaised s (execLdVxK x s) := by
  refine .inl ⟨_, rfl, ?_⟩
  cases s.keyNow with
  | some k => exact hs
  | none => exact nofun

/-- Only a fault leads into HALT, and it is raised before the instruction's first write (R185, R186). -/
theorem exec_liveOrRaised (i : Instr) : LiveOrRaised s (exec i s) := by
  cases i with
  | ret =>
    obtain ⟨_, h⟩ | ⟨_, h⟩ := execRet_cases s
    · exact .inr ⟨_, h⟩
    · exact .inl ⟨_, h, hs⟩
  | call nnn =>
    obtain ⟨_, h⟩ | ⟨_, h⟩ := execCall_cases nnn s
    · exact .inr ⟨_, h⟩
    · exact .inl ⟨_, h, hs⟩
  | drwVxVyN x y n =>
    obtain ⟨_, r, _, h⟩ | ⟨_, h⟩ := execDrw_cases x y n s
    · exact .inl ⟨_, h, hs⟩
    · exact .inr ⟨_, h⟩
  | ldVxMem x =>
    obtain ⟨_, h⟩ | ⟨_, h⟩ := execLdVxMem_cases x s
    · exact .inl ⟨_, h, by simpa [State.live] using hs⟩
    · exact .inr ⟨_, h⟩
  | ldBVx x | ldMemVx x => exact storeAtIndex_liveOrRaised hs _
  | ldVxK x => exact execLdVxK_liveOrRaised hs x
  | _ => exact .inl ⟨_, rfl, hs⟩

end Execute

section InstructionStep

variable {s t : State} {w : Word}

theorem instructionStep_of_fetch_none (hf : s.fetch = none) : instructionStep s = raise .memBounds s := by
  simp only [instructionStep, hf, fetchFault]

theorem instructionStep_of_decode_ok {i : Instr} (hf : s.fetch = some w) (hd : decode w = .ok i) :
    instructionStep s = exec i (s.fetched w) := by
  simp only [instructionStep, hf, hd]

theorem instructionStep_of_decode_error {e : DecodeError} (hf : s.fetch = some w) (hd : decode w = .error e) :
    instructionStep s = raise .unsupportedOpcode (s.fetched w) := by
  simp only [instructionStep, hf, hd, unsupportedWord]

theorem faultTaken_of_raise {c : Fault} (h : raise c s = .next t) : FaultTaken c s t := by
  obtain ⟨u, hu, hfault⟩ := faultTaken_raise c s
  cases hu.symm.trans h
  exact hfault

theorem LiveOrRaised.faultTaken (h : LiveOrRaised s (.next t)) (hdead : ¬ t.live) : ∃ c, FaultTaken c s t := by
  obtain ⟨u, hu, hlive⟩ | ⟨c, hc⟩ := h
  · cases hu
    exact absurd hlive hdead
  · exact ⟨c, faultTaken_of_raise hc.symm⟩

/-- The fault of an instruction step is taken out of the state it started in, when the fetch fails, and otherwise out of the
state the fetch has left (R181, R186). -/
theorem instructionStep_faultTaken (hs : s.live) (hstep : instructionStep s = .next t) (hdead : ¬ t.live) :
    (s.fetch = none ∧ FaultTaken .memBounds s t) ∨ ∃ w c, s.fetch = some w ∧ FaultTaken c (s.fetched w) t := by
  cases hf : s.fetch with
  | none =>
    rw [instructionStep_of_fetch_none hf] at hstep
    exact .inl ⟨rfl, faultTaken_of_raise hstep⟩
  | some w =>
    refine .inr ⟨w, ?_⟩
    cases hd : decode w with
    | ok i =>
      rw [instructionStep_of_decode_ok hf hd] at hstep
      have hlive : (s.fetched w).live := hs
      have hends := exec_liveOrRaised hlive i
      rw [hstep] at hends
      obtain ⟨c, hfault⟩ := hends.faultTaken hdead
      exact ⟨c, rfl, hfault⟩
    | error e =>
      rw [instructionStep_of_decode_error hf hd] at hstep
      exact ⟨_, rfl, faultTaken_of_raise hstep⟩

theorem sameExcept_setIr (s : State) (w : Word) : SameExcept [.ir] s (s.setIr w) := by
  intro p hp
  cases p <;> simp_all [Same]

/-- A fault taken after the fetch: IR and PC are the fetch's, FAULT_CAUSE and RUN_STATE the fault's, all else is as before. -/
theorem FaultTaken.after_fetched {c : Fault} (h : FaultTaken c (s.fetched w) t) :
    t.ir = w ∧ t.pc = s.pc + 2 ∧ SameExcept [.runState, .cause, .ir, .pc] s t := by
  obtain ⟨_, _, hsame⟩ := h
  have hfetch := (sameExcept_setIr s w).trans (sameExcept_setPc _ (s.pc + 2))
  exact ⟨hsame .ir (by decide), hsame .pc (by decide), (hfetch.trans hsame).mono (by decide)⟩

/-- Settles O5, by the state the fault was taken out of. -/
theorem faultsArePrecise : Obligations.FaultsArePrecise := by
  intro s t hs hstep hdead
  obtain ⟨hf, hfault⟩ | ⟨w, c, hf, hfault⟩ := instructionStep_faultTaken hs hstep hdead
  · have hout := (State.fetch_eq_none_iff s).1 hf
    obtain ⟨hrun, hcause, hsame⟩ := hfault
    refine ⟨hrun, ⟨_, hcause⟩, hsame.mono (by decide), ?_⟩
    rw [if_neg hout.not_ge]
    exact ⟨hsame .ir (by decide), hsame .pc (by decide)⟩
  · obtain ⟨hin, hword⟩ | ⟨_, hnone⟩ := s.fetch_cases
    · cases hword.symm.trans hf
      obtain ⟨hir, hpc, hsame⟩ := hfault.after_fetched
      obtain ⟨hrun, hcause, _⟩ := hfault
      refine ⟨hrun, ⟨_, hcause⟩, hsame, ?_⟩
      rw [if_pos hin, hpc, BitVec.add_sub_cancel]
      exact ⟨hir, rfl, rfl⟩
    · cases hnone.symm.trans hf

/-- Settles O4: the fault is taken out of the state the fetch has left. -/
theorem unsupportedWordHalts : Obligations.UnsupportedWordHalts := by
  intro s hin hd
  obtain ⟨_, hf⟩ | ⟨hout, _⟩ := s.fetch_cases
  · obtain ⟨t, ht, hfault⟩ := faultTaken_raise .unsupportedOpcode (s.fetched _)
    obtain ⟨hir, hpc, hsame⟩ := hfault.after_fetched
    obtain ⟨hrun, hcause, _⟩ := hfault
    exact ⟨t, (instructionStep_of_decode_error hf hd).trans ht, hrun, congrArg causeCode hcause, hir, hpc, hsame⟩
  · exact absurd hin hout.not_ge

end InstructionStep

/-- In HALT no tick is enabled (R197). -/
theorem State.tick_of_halt {s : State} (h : s.run = .halt) : s.tick = s := by
  obtain ⟨hlive, _⟩ | ⟨_, htick⟩ := s.tick_cases
  · exact absurd h hlive
  · exact htick

/-- In HALT no step is enabled (R185). -/
theorem step_of_halt {s : State} (h : s.run = .halt) : step s = .next s := by
  obtain ⟨hlive, _⟩ | ⟨hlive, _⟩ | ⟨_, hstep⟩ := step_cases s
  · exact absurd h hlive
  · exact absurd h hlive
  · exact hstep

/-- A tick writes the two timers alone (R195). -/
theorem sameExcept_tick (s : State) : SameExcept [.delay, .sound] s s.tick := by
  intro p hp
  cases p <;> simp_all [Same]

/-- Settles O7: the entry is `raise`, and HALT enables neither a step nor a tick. -/
theorem faultEntryAndHalt : Obligations.FaultEntryAndHalt := by
  refine ⟨fun c s => ?_, fun s t hhalt hstep => ?_, fun s hhalt => State.tick_of_halt hhalt⟩
  · obtain ⟨t, ht, hfault⟩ := faultTaken_raise c s
    have ⟨hrun, hcause, hsame⟩ := hfault
    exact ⟨t, ht, hfault, beq_iff_eq.2 hrun, congrArg causeCode hcause, hsame .ir (by decide)⟩
  · cases (step_of_halt hhalt).symm.trans hstep
    rfl

/-- Settles O9: RUN and WAIT_KEY count down, HALT does not. -/
theorem tickCountsBothTimersDown : Obligations.TickCountsBothTimersDown := by
  refine fun s => ⟨fun hlive => ?_, fun hhalt => State.tick_of_halt (not_not.1 hhalt)⟩
  obtain ⟨hdt, hst⟩ := State.toNat_tick_timers hlive
  exact ⟨hdt, hst, sameExcept_tick s⟩

end Sys2Proof.Machine

/-!
What the decoder refuses, what its instructions' words look like, and when they are canonical (30_encoding.md section 3).
-/

namespace Sys2Proof.Machine

/-- Settles O11: the word decodes to the instruction it encodes, and the two bytes are the halves of that word. -/
theorem decodeOfEncode : Obligations.DecodeOfEncode := by
  intro i
  have hword : decode (encode i) = .ok i := decode_eq_ok_iff.2 rfl
  refine ⟨hword, fun rest => ?_⟩
  simp only [encodeBytes, wordBytes, List.cons_append, List.nil_append, decodeBytes, bigEndian_bytes, hword]

/-- Settles O12: decoding inverts the encoder. -/
theorem encodeOfDecode : Obligations.EncodeOfDecode := fun _ _ => decode_eq_ok_iff.1

section Unsupported

variable (w : Word)

theorem fieldKk_eq_iff (kk : Byte) : fieldKk w = kk ↔ w.toNat % 256 = kk.toNat := by
  rw [← BitVec.toNat_inj, toNat_fieldKk]

/-- The nibbles family 8 leaves free (R69). -/
theorem decodeFamily8_unsupported_iff :
    decodeFamily8 w = .error (.unsupported w) ↔ w.toNat % 16 ∈ [0x8, 0x9, 0xA, 0xB, 0xC, 0xD, 0xF] := by
  have hlt := (fieldN w).isLt
  rw [← toNat_fieldN, decodeFamily8]
  split
  case h_10 =>
    simp only [imp_false, List.mem_cons, List.not_mem_nil, or_false, true_iff] at *
    omega
  all_goals
    rename_i hn
    exact iff_of_false nofun (by simp [hn])

theorem decodeFamilyE_unsupported_iff :
    decodeFamilyE w = .error (.unsupported w) ↔ w.toNat % 256 ∉ [0x9E, 0xA1] := by
  simp only [decodeFamilyE, fieldKk_eq_iff]
  split_ifs with h1 h2 <;> simp_all

theorem decodeFamilyF_unsupported_iff : decodeFamilyF w = .error (.unsupported w) ↔
    w.toNat % 256 ∉ [0x07, 0x0A, 0x15, 0x18, 0x1E, 0x29, 0x33, 0x55, 0x65] := by
  simp only [decodeFamilyF, fieldKk_eq_iff]
  split_ifs <;> simp_all

/-- A word outside family 0 is above 0x0FFF. -/
theorem le_0FFF_iff_fieldOp : w.toNat ≤ 0x0FFF ↔ (fieldOp w).toNat = 0 := by
  rw [toNat_fieldOp]
  omega

end Unsupported

/-- Settles O14: the top nibble selects one of the four sets, or a family that refuses no word. -/
theorem unsupportedWordsExactly : Obligations.UnsupportedWordsExactly := by
  intro w
  rw [le_0FFF_iff_fieldOp, ← toNat_fieldOp, ← decodeFamily8_unsupported_iff, ← decodeFamilyE_unsupported_iff,
    ← decodeFamilyF_unsupported_iff, decode]
  split_ifs with hcls hret
  · subst hcls; decide
  · subst hret; decide
  have hlt := (fieldOp w).isLt
  split
  case h_1 hop => exact iff_of_true rfl (.inl ⟨hop, hcls, hret⟩)
  case h_9 hop => simp [hop]
  case h_15 hop => simp [hop]
  case h_16 =>
    simp only [imp_false] at *
    have hop : (fieldOp w).toNat = 15 := by omega
    simp [hop]
  all_goals
    rename_i hop
    simp [hop]

/-- Every bit that 30_encoding.md section 3 calls ignored is zero in the word (R70, R71, R77). -/
def IgnoredBitsZero (w : Word) : Prop :=
  (w.toNat / 0x1000 = 5 ∨ w.toNat / 0x1000 = 9 → w.toNat % 16 = 0) ∧
  (w.toNat / 0x1000 = 8 ∧ (w.toNat % 16 = 0x6 ∨ w.toNat % 16 = 0xE) → w.toNat / 16 % 16 = 0)

/-- Outside families 5, 8 and 9 no bit is ignored. -/
theorem ignoredBitsZero_of_fieldOp {w : Word} {op : Nibble} (hop : fieldOp w = op) (hne : op ≠ 5 ∧ op ≠ 8 ∧ op ≠ 9) :
    IgnoredBitsZero w := by
  obtain ⟨h5, h8, h9⟩ := hne
  subst hop
  simp only [ne_eq, ← BitVec.toNat_inj, toNat_fieldOp, BitVec.reduceToNat] at h5 h8 h9
  exact ⟨by omega, by omega⟩

/-- In family 8 only SHR and SHL ignore bits, those of y. -/
theorem ignoredBitsZero_family8_iff (x y n : Nibble) :
    IgnoredBitsZero (wordOf 8 x y n) ↔ (n = 6 ∨ n = 14 → y = 0) := by
  simp only [IgnoredBitsZero, toNat_wordOf, ← BitVec.toNat_inj, BitVec.reduceToNat]
  omega

/-- Families 5 and 9 ignore the low nibble. -/
theorem ignoredBitsZero_wordOf_iff {op : Nibble} (hop : op = 5 ∨ op = 9) (x y lo : Nibble) :
    IgnoredBitsZero (wordOf op x y lo) ↔ lo = 0 := by
  simp only [IgnoredBitsZero, toNat_wordOf, ← BitVec.toNat_inj, BitVec.reduceToNat] at hop ⊢
  omega

theorem ite_none_some_eq_none_iff {p : Prop} [Decidable p] (e : IllFormed) :
    (if p then none else some e) = none ↔ p := by
  split_ifs with hp <;> simp [hp]

/-- An instruction is canonical exactly when its own word has every ignored bit zero (R77). -/
theorem wellFormed_iff_encode (i : Instr) : i.WellFormed ↔ IgnoredBitsZero (encode i) := by
  cases i with
  | seVxVy x y lo => exact (ite_none_some_eq_none_iff _).trans (ignoredBitsZero_wordOf_iff (.inl rfl) x y lo).symm
  | sneVxVy x y lo => exact (ite_none_some_eq_none_iff _).trans (ignoredBitsZero_wordOf_iff (.inr rfl) x y lo).symm
  | shrVx x y | shlVx x y =>
    refine (ite_none_some_eq_none_iff _).trans ?_
    rw [encode, ignoredBitsZero_family8_iff]
    simp
  | ldVxVy x y | orVxVy x y | andVxVy x y | xorVxVy x y | addVxVy x y | subVxVy x y | subnVxVy x y =>
    exact iff_of_true rfl ((ignoredBitsZero_family8_iff x y _).2 (by simp))
  | drwVxVyN x y n => exact iff_of_true rfl (ignoredBitsZero_of_fieldOp (fieldOp_wordOf _ x y n) (by decide))
  | jp nnn | call nnn | ldINnn nnn | jpV0Nnn nnn =>
    exact iff_of_true rfl (ignoredBitsZero_of_fieldOp (fieldOp_wordNnn _ nnn) (by decide))
  | cls | ret => exact iff_of_true rfl (ignoredBitsZero_of_fieldOp (op := 0) rfl (by decide))
  | _ => exact iff_of_true rfl (ignoredBitsZero_of_fieldOp (fieldOp_wordXkk _ _ _) (by decide))

/-- Settles O15: an instruction has the word it was decoded from, and no meaning reads the ignored operand. -/
theorem ignoredBitsDoNotMatter : Obligations.IgnoredBitsDoNotMatter := by
  refine ⟨fun w i hd => ?_, fun _ _ _ _ => ⟨rfl, rfl, rfl, rfl⟩⟩
  obtain rfl := decode_eq_ok_iff.1 hd
  exact wellFormed_iff_encode i

/-- Settles O16: the decoder evaluated on each of the eight words. -/
theorem sampleWordsDecode : Obligations.SampleWordsDecode := by
  unfold Obligations.SampleWordsDecode
  decide

end Sys2Proof.Machine

/-!
What an instruction may change: the pieces of state each instruction writes, stated once for all instructions, and the faults
taken in exactly the conditions listed (10_state.md sections 1 to 6, 60_exceptions.md sections 1 and 3).
-/

namespace Sys2Proof.Machine

theorem sameExcept_setFb (s : State) (f : Framebuffer) : SameExcept [.screen] s (s.setFb f) := by
  intro p hp
  cases p <;> simp_all [Same]

theorem sameExcept_pulseInvalidate (s : State) : SameExcept [.pulses] s s.pulseInvalidate := by
  intro p hp
  cases p <;> simp_all [Same]

theorem sameExcept_countDraw (s : State) : SameExcept [.draws] s s.countDraw := by
  intro p hp
  cases p <;> simp_all [Same]

/-- The pieces of state an instruction may write when it takes no fault. -/
def writtenParts : Instr → List Part
  | .cls => [.screen, .pulses]
  | .ret | .call _ => [.pc, .stack]
  | .jp _ | .jpV0Nnn _ | .seVxKk _ _ | .sneVxKk _ _ | .seVxVy _ _ _ | .sneVxVy _ _ _ => [.pc]
  | .skpVx _ | .sknpVx _ => [.pc, .keyReads]
  | .ldVxKk _ _ | .addVxKk _ _ | .ldVxVy _ _ | .orVxVy _ _ | .andVxVy _ _ | .xorVxVy _ _ | .addVxVy _ _ | .subVxVy _ _
  | .shrVx _ _ | .subnVxVy _ _ | .shlVx _ _ | .ldVxDt _ | .ldVxMem _ => [.regs]
  | .rndVxKk _ _ => [.regs, .draws]
  | .drwVxVyN _ _ _ => [.regs, .screen, .pulses]
  | .ldVxK _ => [.regs, .runState, .keyReads]
  | .ldINnn _ | .addIVx _ | .ldFVx _ => [.idx]
  | .ldDtVx _ => [.delay]
  | .ldStVx _ => [.sound]
  | .ldBVx _ | .ldMemVx _ => [.memory]

variable {i : Instr} {s t : State}

/-- The two ends of an instruction: the fault of its listed condition, or, out of that condition, a next state that differs in
the instruction's own pieces alone. -/
def FaultsOrWrites (i : Instr) (s : State) (r : Result) : Prop :=
  (∃ c, faultCondition i s = some c ∧ r = raise c s) ∨
  (faultCondition i s = none ∧ ∃ t, r = .next t ∧ SameExcept (writtenParts i) s t)

/-- A store takes its fault when its last address lies above 0xFFF, and otherwise writes memory alone (R126). -/
theorem storeAtIndex_faultsOrWrites {bytes : List Byte} {n : Nat} (hlen : bytes.length = n + 1)
    (hcond : faultCondition i s = if 0xFFF < s.idx.toNat + n then some .memBounds else none)
    (hmem : writtenParts i = [.memory]) : FaultsOrWrites i s (storeAtIndex bytes s) := by
  rw [FaultsOrWrites, hcond, hmem]
  obtain ⟨hin, hstore⟩ | ⟨hout, hstore⟩ := storeAtIndex_cases bytes s
  · rw [hlen, inMemory_succ_iff] at hin
    exact .inr ⟨if_neg hin.not_gt, _, hstore, sameExcept_setMem s _⟩
  · rw [hlen, inMemory_succ_iff] at hout
    exact .inl ⟨_, if_pos (Nat.lt_of_not_le hout), hstore⟩

/-- A sprite of n bytes is in bounds exactly when DRW's fault condition is false (R141). -/
theorem inMemory_iff_not_drwBounds {a n : Nat} : inMemory a n ↔ ¬ (0 < n ∧ 0xFFF < a + n - 1) := by
  simp only [inMemory]
  omega

/-- DRW writes the screen, then VF, then the pulse (R141). -/
theorem sameExcept_drw (s : State) (f : Framebuffer) (b : Byte) :
    SameExcept [.regs, .screen, .pulses] s (((s.setFb f).setReg vf b).pulseInvalidate) :=
  (((sameExcept_setFb s f).trans (sameExcept_setReg _ vf b)).trans (sameExcept_pulseInvalidate _)).mono (by decide)

/-- LD Vx,K takes a key or waits for one (R165). -/
theorem execLdVxK_cases (x : Nibble) (s : State) :
    (∃ k, s.keyNow = some k ∧ exec (.ldVxK x) s = .next (s.countKeyRead.setReg x (keyByte k))) ∨
    (s.keyNow = none ∧ exec (.ldVxK x) s = .next (s.countKeyRead.setRun .waitKey)) := by
  cases hk : s.keyNow with
  | some k => exact .inl ⟨k, rfl, by simp only [exec, execLdVxK, hk]⟩
  | none => exact .inr ⟨rfl, by simp only [exec, execLdVxK, hk]⟩

theorem exec_faultsOrWrites (i : Instr) (s : State) : FaultsOrWrites i s (exec i s) := by
  cases i with
  | cls => exact .inr ⟨rfl, _, rfl, (sameExcept_setFb s _).trans (sameExcept_pulseInvalidate _)⟩
  | ret =>
    obtain ⟨h, hret⟩ | ⟨h, hret⟩ := execRet_cases s
    · exact .inl ⟨_, if_pos h, hret⟩
    · exact .inr ⟨if_neg h.ne', _, hret, sameExcept_pc_stack s _ s.stk _⟩
  | call nnn =>
    obtain ⟨h, hcall⟩ | ⟨h, hcall⟩ := execCall_cases nnn s
    · exact .inl ⟨_, if_pos h, hcall⟩
    · exact .inr ⟨if_neg h.ne, _, hcall, sameExcept_pc_stack s _ _ _⟩
  | drwVxVyN x y n =>
    obtain ⟨hin, r, _, hdrw⟩ | ⟨hout, hdrw⟩ := execDrw_cases x y n s
    · exact .inr ⟨if_neg (inMemory_iff_not_drwBounds.1 hin), _, hdrw, sameExcept_drw s _ _⟩
    · exact .inl ⟨_, if_pos (not_not.1 fun h => hout (inMemory_iff_not_drwBounds.2 h)), hdrw⟩
  | ldVxMem x =>
    obtain ⟨hin, hload⟩ | ⟨hout, hload⟩ := execLdVxMem_cases x s
    · exact .inr ⟨if_neg (inMemory_succ_iff.1 hin).not_gt, _, hload, sameExcept_setRegList s 0 _⟩
    · exact .inl ⟨_, if_pos (Nat.lt_of_not_le fun h => hout (inMemory_succ_iff.2 h)), hload⟩
  | ldBVx x => exact storeAtIndex_faultsOrWrites (n := 2) rfl rfl rfl
  | ldMemVx x => exact storeAtIndex_faultsOrWrites (s.length_regList _) rfl rfl
  | ldVxK x =>
    obtain ⟨k, _, hkey⟩ | ⟨_, hkey⟩ := execLdVxK_cases x s
    · have hframe := (sameExcept_countKeyRead s).trans (sameExcept_setReg _ x (keyByte k))
      exact .inr ⟨rfl, _, hkey, hframe.mono (d := [.regs, .runState, .keyReads]) (by decide)⟩
    · have hframe := (sameExcept_countKeyRead s).trans (sameExcept_setRun _ .waitKey)
      exact .inr ⟨rfl, _, hkey, hframe.mono (d := [.regs, .runState, .keyReads]) (by decide)⟩
  | skpVx x | sknpVx x => exact .inr ⟨rfl, _, rfl, sameExcept_countKeyRead_skipIf s _⟩
  | rndVxKk x kk =>
    have hframe := (sameExcept_countDraw s).trans (sameExcept_setReg _ x (s.rndNow &&& kk))
    exact .inr ⟨rfl, _, rfl, hframe.mono (d := [.regs, .draws]) (by decide)⟩
  | ldDtVx x => exact .inr ⟨rfl, _, rfl, sameExcept_setDt s _⟩
  | ldStVx x => exact .inr ⟨rfl, _, rfl, sameExcept_setSt s _⟩
  | ldINnn nnn => exact .inr ⟨rfl, _, rfl, sameExcept_setIdx s _⟩
  | addIVx x | ldFVx x => exact .inr ⟨rfl, _, rfl, sameExcept_setIdx s _⟩
  | jp nnn | jpV0Nnn nnn => exact .inr ⟨rfl, _, rfl, sameExcept_setPc s _⟩
  | seVxKk x kk | sneVxKk x kk => exact .inr ⟨rfl, _, rfl, sameExcept_setPc s _⟩
  | seVxVy x y lo | sneVxVy x y lo => exact .inr ⟨rfl, _, rfl, sameExcept_setPc s _⟩
  | ldVxDt x => exact .inr ⟨rfl, _, rfl, sameExcept_setReg s x _⟩
  | ldVxKk x _ | addVxKk x _ | ldVxVy x _ | orVxVy x _ | andVxVy x _ | xorVxVy x _ =>
    exact .inr ⟨rfl, _, rfl, sameExcept_setReg s x _⟩
  | addVxVy x _ | subVxVy x _ | shrVx x _ | subnVxVy x _ | shlVx x _ =>
    exact .inr ⟨rfl, _, rfl, (setFlagThenReg_frame s x _ _).2⟩

/-- An instruction that answers t has taken its listed fault, or has changed its own pieces alone. -/
theorem exec_next_cases (h : exec i s = .next t) :
    (∃ c, faultCondition i s = some c ∧ FaultTaken c s t) ∨
    (faultCondition i s = none ∧ SameExcept (writtenParts i) s t) := by
  obtain ⟨c, hc, hraise⟩ | ⟨hc, u, hu, hsame⟩ := exec_faultsOrWrites i s
  · exact .inl ⟨c, hc, faultTaken_of_raise (hraise.symm.trans h)⟩
  · cases hu.symm.trans h
    exact .inr ⟨hc, hsame⟩

theorem exec_next (i : Instr) (s : State) : ∃ t, exec i s = .next t := by
  obtain ⟨c, _, hraise⟩ | ⟨_, t, ht, _⟩ := exec_faultsOrWrites i s
  · exact ⟨_, hraise⟩
  · exact ⟨t, ht⟩

/-- An instruction leaves every piece it does not write; a fault it takes writes two pieces of its own. -/
theorem exec_keeps {p : Part} (h : exec i s = .next t) (hp : p ∉ writtenParts i)
    (hfault : p ∉ [Part.runState, Part.cause]) : Same s t p := by
  obtain ⟨c, _, _, _, hsame⟩ | ⟨_, hsame⟩ := exec_next_cases h
  · exact hsame p hfault
  · exact hsame p hp

theorem exec_reg_eq {r : Nibble} (h : exec i s = .next t) (hi : .regs ∉ writtenParts i) : t.reg r = s.reg r :=
  exec_keeps h hi (by decide) r

/-- LD Vx,K alone leaves RUN without a fault (R165). -/
theorem runState_mem_writtenParts_iff : .runState ∈ writtenParts i ↔ ∃ x, i = .ldVxK x := by
  cases i <;> simp [writtenParts]

/-- An instruction that takes no fault does not enter HALT. -/
theorem live_of_no_fault (hs : s.live) (h : exec i s = .next t) (hc : faultCondition i s = none) : t.live := by
  obtain ⟨c, hc', _⟩ | ⟨_, hsame⟩ := exec_next_cases h
  · exact absurd (hc.symm.trans hc') nofun
  · by_cases hr : .runState ∈ writtenParts i
    · obtain ⟨x, rfl⟩ := runState_mem_writtenParts_iff.1 hr
      obtain ⟨k, _, hkey⟩ | ⟨_, hkey⟩ := execLdVxK_cases x s
      · cases hkey.symm.trans h
        exact hs
      · cases hkey.symm.trans h
        exact nofun
    · have hrun : t.run = s.run := hsame .runState hr
      rwa [State.live, hrun]

/-- An instruction stays out of HALT exactly when its fault condition is false. -/
theorem live_iff_no_fault (hs : s.live) (h : exec i s = .next t) : t.live ↔ faultCondition i s = none := by
  refine ⟨fun hlive => ?_, live_of_no_fault hs h⟩
  obtain ⟨c, _, hrun, _⟩ | ⟨hc, _⟩ := exec_next_cases h
  · exact absurd hrun hlive
  · exact hc

/-- No instruction that takes no fault writes FAULT_CAUSE (R25). -/
theorem cause_notMem_writtenParts (i : Instr) : .cause ∉ writtenParts i := by
  cases i <;> simp [writtenParts]

/-- Settles O6: the fault condition decides which of the two ends an instruction has. -/
theorem faultsExactlyWhenListed : Obligations.FaultsExactlyWhenListed := by
  refine ⟨fun i s hs => ?_, fun s _ => State.fetch_eq_none_iff s⟩
  obtain ⟨t, ht⟩ := exec_next i s
  obtain ⟨c, hc, hfault⟩ | ⟨hc, hsame⟩ := exec_next_cases ht
  · refine ⟨t, ht, fun d hd => ?_, fun hnone => absurd (hnone.symm.trans hc) nofun⟩
    cases hc.symm.trans hd
    exact hfault
  · exact ⟨t, ht, fun d hd => absurd (hc.symm.trans hd) nofun,
      fun _ => ⟨live_of_no_fault hs ht hc, hsame .cause (cause_notMem_writtenParts i)⟩⟩

/-- Settles O46: the instructions that write registers write those of the table, and every other leaves all registers. -/
theorem registersWrittenOnlyAsListed : Obligations.RegistersWrittenOnlyAsListed := by
  intro i s t r h hr
  cases i with
  | ldVxKk x _ | addVxKk x _ | ldVxVy x _ | orVxVy x _ | andVxVy x _ | xorVxVy x _ | ldVxDt x =>
    cases h
    exact (setReg_frame s x _).1 r hr
  | rndVxKk x kk =>
    cases h
    exact (setReg_frame s.countDraw x _).1 r hr
  | addVxVy x _ | subVxVy x _ | shrVx x _ | subnVxVy x _ | shlVx x _ =>
    cases h
    exact (setFlagThenReg_frame s x _ _).1 r hr
  | ldVxK x =>
    obtain ⟨k, _, hkey⟩ | ⟨_, hkey⟩ := execLdVxK_cases x s
    · cases hkey.symm.trans h
      exact (setReg_frame s.countKeyRead x _).1 r hr
    · cases hkey.symm.trans h
      rfl
  | drwVxVyN x y n =>
    obtain ⟨_, b, _, hdrw⟩ | ⟨_, hdrw⟩ := execDrw_cases x y n s
    · cases hdrw.symm.trans h
      exact (setReg_frame (s.setFb b.1) vf _).1 r hr
    · cases hdrw.symm.trans h
      rfl
  | ldVxMem x =>
    obtain ⟨_, hload⟩ | ⟨_, hload⟩ := execLdVxMem_cases x s
    · cases hload.symm.trans h
      exact (s.setRegList_range_reg x.isLt _ r).trans (if_neg fun hlt => hr (Nat.le_of_lt_succ hlt))
    · cases hload.symm.trans h
      rfl
  | _ => exact exec_reg_eq h (by simp [writtenParts])

theorem idx_mem_writtenParts_iff :
    .idx ∈ writtenParts i ↔ (∃ nnn, i = .ldINnn nnn) ∨ (∃ x, i = .addIVx x) ∨ (∃ x, i = .ldFVx x) := by
  cases i <;> simp [writtenParts]

/-- The three values I can be given are at most 0xFFF (R14): a 12-bit literal, a sum modulo 4096, five times a byte. -/
theorem exec_idx_le (h : exec i s = .next t) (hi : .idx ∈ writtenParts i) : t.idx.toNat ≤ 0xFFF := by
  obtain ⟨nnn, rfl⟩ | ⟨x, rfl⟩ | ⟨x, rfl⟩ := idx_mem_writtenParts_iff.1 hi
  · cases h
    have hlt := nnn.isLt
    rw [State.setIdx_idx, toNat_literalAddr]
    omega
  · cases h
    rw [State.setIdx_idx, toNat_indexSum]
    omega
  · cases h
    have hlt := (s.reg x).isLt
    rw [State.setIdx_idx, toNat_glyphAddr]
    omega

/-- Settles O47: I is kept by every instruction but the three, and each of the three gives it a value in bounds. -/
theorem indexWrittenByThree : Obligations.IndexWrittenByThree := by
  intro i s t h
  by_cases hi : .idx ∈ writtenParts i
  · exact ⟨.inr (idx_mem_writtenParts_iff.1 hi), fun _ => exec_idx_le h hi⟩
  · have hkeep : t.idx = s.idx := exec_keeps h hi (by decide)
    exact ⟨.inl hkeep, fun hs => hkeep ▸ hs⟩

/-- An address a store changes lies in the stored block, and inside memory (R48, R126). -/
theorem storeAtIndex_changes {bytes : List Byte} {a : Nat} (h : storeAtIndex bytes s = .next t)
    (hne : t.mem.read a ≠ s.mem.read a) : a ≤ 0xFFF ∧ s.idx.toNat ≤ a ∧ a < s.idx.toNat + bytes.length := by
  obtain ⟨hin, hstore⟩ | ⟨_, hstore⟩ := storeAtIndex_cases bytes s
  · cases hstore.symm.trans h
    rw [State.setMem_mem, Memory.read_writeList] at hne
    split at hne
    · simp only [inMemory] at hin
      omega
    · exact absurd rfl hne
  · cases hstore.symm.trans h
    exact absurd rfl hne

/-- Settles O48: the two stores change their own block, and every other instruction leaves memory. -/
theorem memoryWrittenByTwo : Obligations.MemoryWrittenByTwo := by
  intro i s t a h hne
  cases i with
  | ldBVx x =>
    obtain ⟨hle, hlo, hhi⟩ := storeAtIndex_changes h hne
    exact ⟨hle, hlo, .inl ⟨x, rfl, Nat.le_of_lt_succ hhi⟩⟩
  | ldMemVx x =>
    obtain ⟨hle, hlo, hhi⟩ := storeAtIndex_changes h hne
    rw [State.length_regList] at hhi
    exact ⟨hle, hlo, .inr ⟨x, rfl, Nat.le_of_lt_succ hhi⟩⟩
  | _ => exact absurd (exec_keeps (p := .memory) h (by simp [writtenParts]) (by decide) a) hne

theorem screen_mem_writtenParts_iff : .screen ∈ writtenParts i ↔ i = .cls ∨ ∃ x y n, i = .drwVxVyN x y n := by
  cases i <;> simp [writtenParts]

theorem pulses_mem_writtenParts_iff : .pulses ∈ writtenParts i ↔ i = .cls ∨ ∃ x y n, i = .drwVxVyN x y n := by
  cases i <;> simp [writtenParts]

theorem stack_mem_writtenParts_iff : .stack ∈ writtenParts i ↔ i = .ret ∨ ∃ nnn, i = .call nnn := by
  cases i <;> simp [writtenParts]

theorem delay_mem_writtenParts_iff : .delay ∈ writtenParts i ↔ ∃ x, i = .ldDtVx x := by
  cases i <;> simp [writtenParts]

theorem sound_mem_writtenParts_iff : .sound ∈ writtenParts i ↔ ∃ x, i = .ldStVx x := by
  cases i <;> simp [writtenParts]

/-- A CLS or DRW that takes no fault pulses fb_invalidate once (R31, R147). -/
theorem exec_pulses (h : exec i s = .next t) (hi : .pulses ∈ writtenParts i) (hc : faultCondition i s = none) :
    t.invalidates = s.invalidates + 1 := by
  obtain rfl | ⟨x, y, n, rfl⟩ := pulses_mem_writtenParts_iff.1 hi
  · cases h
    rfl
  · obtain ⟨_, b, _, hdrw⟩ | ⟨hout, _⟩ := execDrw_cases x y n s
    · cases hdrw.symm.trans h
      rfl
    · rw [inMemory_iff_not_drwBounds, not_not] at hout
      exact absurd (hc.symm.trans (if_pos hout)) nofun

/-- The pulse counter goes up by one at a CLS or DRW that stays live, and stays in every other case. -/
theorem exec_invalidates (hs : s.live) (h : exec i s = .next t) :
    t.invalidates = if t.live ∧ .pulses ∈ writtenParts i then s.invalidates + 1 else s.invalidates := by
  split_ifs with hpulse
  · exact exec_pulses h hpulse.2 ((live_iff_no_fault hs h).1 hpulse.1)
  · obtain ⟨c, _, _, _, hsame⟩ | ⟨hc, hsame⟩ := exec_next_cases h
    · exact hsame .pulses (by decide)
    · exact hsame .pulses fun hi => hpulse ⟨live_of_no_fault hs h hc, hi⟩

/-- Settles O49: a piece that has changed is one the instruction writes. -/
theorem separateSpacesChangedByOwnInstructions : Obligations.SeparateSpacesChangedByOwnInstructions := by
  intro i s t hs h
  have hkeep {p : Part} (hfault : p ∉ [Part.runState, Part.cause]) (hne : ¬ Same s t p) : p ∈ writtenParts i :=
    by_contra fun hp => hne (exec_keeps h hp hfault)
  have hpulse := exec_invalidates hs h
  refine ⟨fun hne => ?_, ?_, ?_, fun hne => ?_, fun hne => ?_, fun hne => ?_⟩
  · exact screen_mem_writtenParts_iff.1 (hkeep (p := .screen) (by decide) hne)
  · rw [← pulses_mem_writtenParts_iff, hpulse]
    split_ifs with hcond <;> simp [hcond]
  · rw [hpulse]
    split_ifs <;> simp
  · exact stack_mem_writtenParts_iff.1 (hkeep (p := .stack) (by decide) fun hsame => not_and_or.2 hne hsame)
  · exact delay_mem_writtenParts_iff.1 (hkeep (p := .delay) (by decide) hne)
  · exact sound_mem_writtenParts_iff.1 (hkeep (p := .sound) (by decide) hne)

/-- A skip leaves PC or adds 2 to it (R88). -/
theorem State.skipIf_pc_cases (s : State) (c : Bool) : (s.skipIf c).pc = s.pc ∨ (s.skipIf c).pc = s.pc + 2 := by
  cases c
  · exact .inl rfl
  · exact .inr rfl

/-- Settles O50: an instruction that takes a fault leaves PC, and otherwise each that writes PC gives it its own value. -/
theorem programCounterAfter : Obligations.ProgramCounterAfter := by
  intro i s t hs h
  refine ⟨fun hlive => ?_, fun hdead => ?_⟩
  · have hc := (live_iff_no_fault hs h).1 hlive
    cases i with
    | jp nnn =>
      cases h
      exact toNat_literalAddr nnn
    | jpV0Nnn nnn =>
      cases h
      exact toNat_literalAddr_add_widen nnn (s.reg 0)
    | call nnn =>
      obtain ⟨_, hcall⟩ | ⟨_, hcall⟩ := execCall_cases nnn s
      · cases hcall.symm.trans h
        exact absurd rfl hlive
      · cases hcall.symm.trans h
        exact toNat_literalAddr nnn
    | ret =>
      obtain ⟨_, hret⟩ | ⟨_, hret⟩ := execRet_cases s
      · cases hret.symm.trans h
        exact absurd rfl hlive
      · cases hret.symm.trans h
        exact fun _ => rfl
    | seVxKk | sneVxKk | seVxVy | sneVxVy | skpVx | sknpVx =>
      cases h
      exact State.skipIf_pc_cases _ _
    | _ => exact exec_keeps (p := .pc) h (by simp [writtenParts]) (by decide)
  · obtain ⟨c, _, _, _, hsame⟩ | ⟨hc, _⟩ := exec_next_cases h
    · exact hsame .pc (by decide)
    · exact absurd (live_of_no_fault hs h hc) hdead

/-- Settles O51: the key skips and the key wait count one read, RND one draw, and no other instruction writes a counter. -/
theorem inputsSampledOnce : Obligations.InputsSampledOnce := by
  intro i s t h
  have hturns : Same s t .turns := exec_keeps h (by cases i <;> simp [writtenParts]) (by decide)
  refine ⟨?_, ?_, hturns⟩
  · cases i with
    | skpVx | sknpVx =>
      cases h
      rfl
    | ldVxK x =>
      obtain ⟨k, _, hkey⟩ | ⟨_, hkey⟩ := execLdVxK_cases x s
      · cases hkey.symm.trans h
        rfl
      · cases hkey.symm.trans h
        rfl
    | _ => exact exec_keeps (p := .keyReads) h (by simp [writtenParts]) (by decide)
  · cases i with
    | rndVxKk =>
      cases h
      rfl
    | _ => exact exec_keeps (p := .draws) h (by simp [writtenParts]) (by decide)

end Sys2Proof.Machine

/-!
The invariant of the machine (`State.Inv`): each of its clauses across an instruction, and across a step of either agent; the
launch that starts it (10_state.md sections 3, 4, 6, 13; 20_memory.md section 8).
-/

namespace Sys2Proof.Machine

variable {s t : State} {i : Instr}

/-- The invariant does not see the timers and the turns, so it passes to a state that agrees in the fields it speaks of. -/
theorem State.Inv.congr (h : s.Inv) (hmem : t.mem = s.mem) (hidx : t.idx = s.idx) (hpc : t.pc = s.pc)
    (hstk : t.stk = s.stk) (hsp : t.sp = s.sp) (hrun : t.run = s.run) (hcause : t.cause = s.cause) (hir : t.ir = s.ir) :
    t.Inv := by
  obtain ⟨memWf, idxBound, pcBound, stkBound, haltCause, waitIr⟩ := h
  constructor
  · rwa [hmem]
  · rwa [hidx]
  · rwa [hpc]
  · rwa [hstk, hsp]
  · rwa [hrun, hcause]
  · rwa [hrun, hir]

theorem State.Inv.takeTurn (h : s.Inv) : s.takeTurn.Inv := h.congr rfl rfl rfl rfl rfl rfl rfl rfl

theorem State.Inv.tick (h : s.Inv) : s.tick.Inv :=
  h.congr s.tick_mem s.tick_idx s.tick_pc s.tick_stk s.tick_sp s.tick_run s.tick_cause s.tick_ir

/-- The entry into a fault writes the two fields that the invariant ties together (R185). -/
theorem State.Inv.raised (h : s.Inv) (c : Fault) (ht : raise c s = .next t) : t.Inv := by
  cases ht
  obtain ⟨memWf, idxBound, pcBound, stkBound, _, _⟩ := h
  exact ⟨memWf, idxBound, pcBound, stkBound, by simp, nofun⟩

/-- What the fetch of an instruction leaves: the invariant, with PC the address after the word (R28). -/
structure Fetched (i : Instr) (s : State) : Prop where
  inv : s.Inv
  run : s.run = .run
  word : s.ir = encode i
  pcLow : 0x0002 ≤ s.pc.toNat
  pcHigh : s.pc.toNat ≤ 0x1000

theorem toNat_pc_add_two {p : Word} (h : p.toNat ≤ 0xFFE) : (p + 2).toNat = p.toNat + 2 := by
  rw [BitVec.toNat_add]
  exact Nat.mod_eq_of_lt (show p.toNat + 2 < 65536 by omega)

/-- A word is fetched from 0xFFE at most, so PC + 2 stays in bounds (R16, R44). -/
theorem pc_le_of_fetch {w : Word} (hf : s.fetch = some w) : s.pc.toNat ≤ 0xFFE := by
  obtain ⟨hin, _⟩ | ⟨_, hnone⟩ := s.fetch_cases
  · exact hin
  · cases hnone.symm.trans hf

theorem State.Inv.fetched {w : Word} (h : s.Inv) (hrun : s.run = .run) (hf : s.fetch = some w) : (s.fetched w).Inv := by
  obtain ⟨memWf, idxBound, _, stkBound, haltCause, _⟩ := h
  refine ⟨memWf, idxBound, ?_, stkBound, haltCause, fun hwait => nomatch hrun.symm.trans hwait⟩
  have hin := pc_le_of_fetch hf
  rw [State.fetched_pc, toNat_pc_add_two hin]
  omega

theorem fetched_of_decode {w : Word} (h : s.Inv) (hrun : s.run = .run) (hf : s.fetch = some w) (hd : decode w = .ok i) :
    Fetched i (s.fetched w) := by
  have hin := pc_le_of_fetch hf
  have hpc : (s.fetched w).pc.toNat = s.pc.toNat + 2 := toNat_pc_add_two hin
  exact ⟨h.fetched hrun hf, hrun, (decode_eq_ok_iff.1 hd).symm, by omega, by omega⟩

/-! The clauses across an instruction. -/

theorem storeAtIndex_memWf {bytes : List Byte} (hwf : s.mem.wf) (h : storeAtIndex bytes s = .next t) : t.mem.wf := by
  obtain ⟨hin, hstore⟩ | ⟨_, hstore⟩ := storeAtIndex_cases bytes s
  · cases hstore.symm.trans h
    exact Memory.writeList_wf bytes hwf hin
  · cases hstore.symm.trans h
    exact hwf

theorem exec_memWf (hwf : s.mem.wf) (h : exec i s = .next t) : t.mem.wf := by
  cases i with
  | ldBVx | ldMemVx => exact storeAtIndex_memWf hwf h
  | ret =>
    obtain ⟨_, hret⟩ | ⟨_, hret⟩ := execRet_cases s
    all_goals
      cases hret.symm.trans h
      exact hwf
  | call nnn =>
    obtain ⟨_, hcall⟩ | ⟨_, hcall⟩ := execCall_cases nnn s
    all_goals
      cases hcall.symm.trans h
      exact hwf
  | drwVxVyN x y n =>
    obtain ⟨_, _, _, hdrw⟩ | ⟨_, hdrw⟩ := execDrw_cases x y n s
    all_goals
      cases hdrw.symm.trans h
      exact hwf
  | ldVxMem x =>
    obtain ⟨_, hload⟩ | ⟨_, hload⟩ := execLdVxMem_cases x s
    all_goals
      cases hload.symm.trans h
      simpa using hwf
  | ldVxK x =>
    obtain ⟨_, _, hkey⟩ | ⟨_, hkey⟩ := execLdVxK_cases x s
    all_goals
      cases hkey.symm.trans h
      exact hwf
  | _ =>
    cases h
    exact hwf

/-- No instruction leads to a PC above 0xFFF + 0xFF, the highest target of JP V0,nnn (R16). -/
theorem pcAfter_le (hs : Fetched i s) (hc : faultCondition i s = none) {p : Word} (hp : pcAfter i s p) :
    p.toNat ≤ 0x10FE := by
  obtain ⟨hinv, _, _, _, hpc⟩ := hs
  cases i with
  | jp nnn | call nnn =>
    have hlt := nnn.isLt
    dsimp only [pcAfter] at hp
    omega
  | jpV0Nnn nnn =>
    have hlt := nnn.isLt
    have hbyte := (s.reg 0).isLt
    dsimp only [pcAfter] at hp
    omega
  | ret =>
    have hused : s.sp.val ≠ 0 := fun h => nomatch (if_pos h).symm.trans hc
    have hentry := hinv.stkBound ⟨s.sp.val - 1, by omega⟩ (Nat.sub_one_lt hused)
    rw [hp (Nat.pos_of_ne_zero hused)]
    exact hentry.2.trans (by decide)
  | seVxKk | sneVxKk | seVxVy | sneVxVy | skpVx | sknpVx =>
    obtain rfl | rfl := hp
    · omega
    · rw [BitVec.toNat_add]
      exact (Nat.mod_le _ _).trans (Nat.add_le_add_right hpc 2 |>.trans (by decide))
  | _ =>
    cases hp
    omega

theorem exec_pc_le (hs : Fetched i s) (h : exec i s = .next t) : t.pc.toNat ≤ 0x10FE := by
  have hlive : s.live := by simp [State.live, hs.run]
  obtain ⟨hnext, hfault⟩ := programCounterAfter i s t hlive h
  by_cases ht : t.live
  · exact pcAfter_le hs ((live_iff_no_fault hlive h).1 ht) (hnext ht)
  · rw [hfault ht]
    exact hs.inv.pcBound

/-- An entry in use after an instruction was in use before it and is the same, or CALL has pushed PC there (R18, R82). -/
theorem exec_entry (h : exec i s = .next t) (k : Fin 16) (hk : k.val < t.sp.val) :
    (k.val < s.sp.val ∧ t.stk[k] = s.stk[k]) ∨ (k.val = s.sp.val ∧ t.stk[k] = s.pc) := by
  by_cases hstack : .stack ∈ writtenParts i
  · obtain rfl | ⟨nnn, rfl⟩ := stack_mem_writtenParts_iff.1 hstack
    · obtain ⟨_, hret⟩ | ⟨_, hret⟩ := execRet_cases s
      · cases hret.symm.trans h
        exact .inl ⟨hk, rfl⟩
      · cases hret.symm.trans h
        exact .inl ⟨Nat.lt_of_lt_of_le hk (Nat.sub_le _ _), rfl⟩
    · obtain ⟨_, hcall⟩ | ⟨hroom, hcall⟩ := execCall_cases nnn s
      · cases hcall.symm.trans h
        exact .inl ⟨hk, rfl⟩
      · cases hcall.symm.trans h
        obtain hlt | heq := Nat.lt_succ_iff_lt_or_eq.1 hk
        · exact .inl ⟨hlt, Vector.getElem_set_ne hroom k.isLt hlt.ne'⟩
        · refine .inr ⟨heq, ?_⟩
          simp [heq]
  · obtain ⟨hsp, hstk⟩ : Same s t .stack := exec_keeps h hstack (by decide)
    rw [hsp] at hk
    exact .inl ⟨hk, by rw [hstk]⟩

/-- LD Vx,K alone leads into WAIT_KEY, with its own word in IR (R165). -/
theorem exec_waitIr (hs : Fetched i s) (h : exec i s = .next t) (hwait : t.run = .waitKey) : t.ir &&& 0xF0FF = 0xF00A := by
  have hir : t.ir = s.ir := exec_keeps (p := .ir) h (by cases i <;> simp [writtenParts]) (by decide)
  by_cases hr : .runState ∈ writtenParts i
  · obtain ⟨x, rfl⟩ := runState_mem_writtenParts_iff.1 hr
    rw [hir, hs.word]
    exact inRow_encode (.ldVxK x)
  · obtain ⟨c, _, hrun, _⟩ | ⟨_, hsame⟩ := exec_next_cases h
    · exact nomatch hrun.symm.trans hwait
    · have hrun : t.run = s.run := hsame .runState hr
      exact nomatch hs.run.symm.trans (hrun.symm.trans hwait)

theorem exec_haltCause (hs : Fetched i s) (h : exec i s = .next t) : t.run = .halt ↔ t.cause ≠ none := by
  have hlive : s.live := by simp [State.live, hs.run]
  obtain ⟨c, _, hrun, hcause, _⟩ | ⟨hc, hsame⟩ := exec_next_cases h
  · exact iff_of_true hrun (by simp [hcause])
  · have hcause : t.cause = s.cause := hsame .cause (cause_notMem_writtenParts i)
    have hnone : s.cause = none := not_not.1 fun hne => hlive (hs.inv.haltCause.2 hne)
    exact iff_of_false (live_of_no_fault hlive h hc) (by simp [hcause, hnone])

/-- An instruction keeps the invariant, clause by clause. -/
theorem exec_inv (hs : Fetched i s) (h : exec i s = .next t) : t.Inv where
  memWf := exec_memWf hs.inv.memWf h
  idxBound := (indexWrittenByThree i s t h).2 hs.inv.idxBound
  pcBound := exec_pc_le hs h
  stkBound k hk := by
    obtain ⟨hused, hentry⟩ | ⟨_, hentry⟩ := exec_entry h k hk
    · rw [hentry]
      exact hs.inv.stkBound k hused
    · rw [hentry]
      exact ⟨hs.pcLow, hs.pcHigh⟩
  haltCause := exec_haltCause hs h
  waitIr := exec_waitIr hs h

/-! The steps. -/

/-- A poll in WAIT_KEY goes back to RUN with no fault recorded, or stays (R37). -/
theorem pollStep_inv (hs : s.Inv) (hwait : s.run = .waitKey) (h : pollStep s = .next t) : t.Inv := by
  cases hk : s.keyNow with
  | some k =>
    cases (pollStep_of_some hk).symm.trans h
    obtain ⟨memWf, idxBound, pcBound, stkBound, haltCause, _⟩ := hs
    refine ⟨memWf, idxBound, pcBound, stkBound, iff_of_false nofun fun hcause => ?_, nofun⟩
    exact nomatch hwait.symm.trans (haltCause.2 hcause)
  | none =>
    cases (pollStep_of_none hk).symm.trans h
    exact hs.congr rfl rfl rfl rfl rfl rfl rfl rfl

theorem engineStep_inv (hs : s.Inv) (h : engineStep s = .next t) : t.Inv := by
  obtain ⟨hrun, w, i, hf, hd, hstep⟩ | ⟨hrun, w, e, hf, hd, hstep⟩ | ⟨_, _, hstep⟩ | ⟨hwait, hstep⟩ | ⟨_, hstep⟩ :=
    engineStep_cases s <;> rw [hstep] at h
  · exact exec_inv (fetched_of_decode hs hrun hf hd) h
  · exact (hs.fetched hrun hf).raised _ h
  · exact hs.raised _ h
  · exact pollStep_inv hs hwait h
  · cases h
    exact hs

/-- Settles O52, by the agent whose turn it is. -/
theorem stepKeepsInvariant : Obligations.StepKeepsInvariant := by
  intro s t hs h
  obtain ⟨_, _, hstep⟩ | ⟨_, _, hstep⟩ | ⟨_, hstep⟩ := step_cases s <;> rw [hstep] at h
  · exact engineStep_inv hs.takeTurn h
  · cases h
    exact hs.takeTurn.tick
  · cases h
    exact hs

theorem reset_inv : State.reset.Inv :=
  ⟨by decide, by decide, by decide, fun _ hk => absurd hk (Nat.not_lt_zero _), by decide, by decide⟩

/-- Settles O53: the launch writes memory alone, by two block writes inside memory. -/
theorem launchMeetsInvariant : Obligations.LaunchMeetsInvariant := by
  refine ⟨reset_inv, fun glyphs image t h => ?_⟩
  by_cases hfits : image.length ≤ 3584
  · rw [launchWith_of_fits glyphs hfits] at h
    cases h
    obtain ⟨memWf, idxBound, pcBound, stkBound, haltCause, waitIr⟩ := reset_inv
    refine ⟨Memory.writeList_wf image (Memory.writeList_wf glyphs.toList memWf ?_) ?_, idxBound, pcBound, stkBound,
      haltCause, waitIr⟩
    · simp [inMemory]
    · simp only [inMemory]
      omega
  · rw [launchWith, if_neg hfits] at h
    exact nomatch h

end Sys2Proof.Machine

/-!
The step of each agent (10_state.md section 11): what the engine's step and the tick do when their turn has come, any number of
ticks in a row, and the terminal state (70_reset_and_hazards.md section 4).
-/

namespace Sys2Proof.Machine

variable {s t : State} {i : Instr} {w : Word}

theorem step_of_engine (hlive : s.live) (hturn : s.turn = .engine) : step s = engineStep s.takeTurn := by
  obtain ⟨_, _, hstep⟩ | ⟨_, hother, _⟩ | ⟨hhalt, _⟩ := step_cases s
  · exact hstep
  · exact nomatch hturn.symm.trans hother
  · exact absurd hhalt hlive

theorem step_of_timerUnit (hlive : s.live) (hturn : s.turn = .timerUnit) : step s = .next s.takeTurn.tick := by
  obtain ⟨_, hother, _⟩ | ⟨_, _, hstep⟩ | ⟨hhalt, _⟩ := step_cases s
  · exact nomatch hturn.symm.trans hother
  · exact hstep
  · exact absurd hhalt hlive

theorem engineStep_of_run (h : s.run = .run) : engineStep s = instructionStep s := by
  simp only [engineStep, h]

theorem engineStep_of_waitKey (h : s.run = .waitKey) : engineStep s = pollStep s := by
  simp only [engineStep, h]

theorem live_of_run (h : s.run = .run) : s.live := by simp [State.live, h]

theorem live_of_waitKey (h : s.run = .waitKey) : s.live := by simp [State.live, h]

/-- On the engine's turn in RUN the step is the instruction step of the state with that turn taken (R28). -/
theorem step_of_run (hturn : s.turn = .engine) (hrun : s.run = .run) : step s = instructionStep s.takeTurn :=
  (step_of_engine (live_of_run hrun) hturn).trans (engineStep_of_run (s := s.takeTurn) hrun)

theorem State.fetch_of_le (h : s.pc.toNat ≤ 0xFFE) :
    s.fetch = some (s.mem.read s.pc.toNat ++ s.mem.read (s.pc.toNat + 1)) := by
  obtain ⟨_, hf⟩ | ⟨hout, _⟩ := s.fetch_cases
  · exact hf
  · exact absurd h hout.not_ge

/-- Settles O3: the step is the instruction step or the poll, and the instruction step ends as its fetch and its decoding do. -/
theorem stepRunsDecodedInstruction : Obligations.StepRunsDecodedInstruction := by
  refine ⟨fun s hturn => ⟨step_of_run hturn, fun hwait => ?_⟩, fun s hturn hrun hout => ?_,
    fun s i hturn hrun hin hd => ?_, fun s hturn hrun hin hd => ?_, fun i u t hu h hdead => ?_⟩
  · exact (step_of_engine (live_of_waitKey hwait) hturn).trans (engineStep_of_waitKey (s := s.takeTurn) hwait)
  · have hf : s.takeTurn.fetch = none := (State.fetch_eq_none_iff s).2 hout
    rw [step_of_run hturn hrun, instructionStep_of_fetch_none hf]
    exact faultTaken_raise .memBounds s.takeTurn
  · have hf : s.takeTurn.fetch = some _ := State.fetch_of_le hin
    rw [step_of_run hturn hrun, instructionStep_of_decode_ok hf hd]
    rfl
  · have hf : s.takeTurn.fetch = some _ := State.fetch_of_le hin
    rw [step_of_run hturn hrun]
    cases hdec : decode (s.mem.read s.pc.toNat ++ s.mem.read (s.pc.toNat + 1)) with
    | ok i => exact absurd hdec (hd i)
    | error e =>
      rw [instructionStep_of_decode_error hf hdec]
      exact faultTaken_raise .unsupportedOpcode _
  · have hends := exec_liveOrRaised hu i
    rw [h] at hends
    exact hends.faultTaken hdead

/-! Every step has a next state. -/

/-- The engine's step ends in a next state and does not touch the order of turns. -/
theorem engineStep_next (s : State) : ∃ t, engineStep s = .next t ∧ Same s t .turns := by
  obtain ⟨_, w, i, _, _, hstep⟩ | ⟨_, w, e, _, _, hstep⟩ | ⟨_, _, hstep⟩ | ⟨_, hstep⟩ | ⟨_, hstep⟩ := engineStep_cases s
  all_goals rw [hstep]
  · obtain ⟨t, ht⟩ := exec_next i (s.fetched w)
    obtain ⟨_, _, hturns⟩ := inputsSampledOnce i (s.fetched w) t ht
    exact ⟨t, ht, hturns⟩
  · exact ⟨_, rfl, rfl, rfl⟩
  · exact ⟨_, rfl, rfl, rfl⟩
  · cases hk : s.keyNow with
    | some k => exact ⟨_, pollStep_of_some hk, rfl, rfl⟩
    | none => exact ⟨_, pollStep_of_none hk, rfl, rfl⟩
  · exact ⟨s, rfl, rfl, rfl⟩

/-- Settles O56, by the agent whose turn it is. -/
theorem stepAlwaysGivesNextState : Obligations.StepAlwaysGivesNextState := by
  intro s
  obtain ⟨_, _, hstep⟩ | ⟨_, _, hstep⟩ | ⟨_, hstep⟩ := step_cases s
  · obtain ⟨t, ht, _⟩ := engineStep_next s.takeTurn
    exact ⟨t, hstep.trans ht⟩
  · exact ⟨_, hstep⟩
  · exact ⟨_, hstep⟩

/-! Turns and ticks. -/

theorem sameExcept_takeTurn (s : State) : SameExcept [.turns] s s.takeTurn := by
  intro p hp
  cases p <;> simp_all [Same]

theorem sameExcept_schedule (s : State) (agents : List Agent) : SameExcept [.turns] s (s.schedule agents) := by
  intro p hp
  cases p <;> simp_all [Same]

theorem sameExcept_refl (changed : List Part) (s : State) : SameExcept changed s s := by
  intro p _
  cases p <;> simp [Same]

/-- A tick step takes a turn and counts both timers down, stopping at 0 (R195). -/
theorem tickStep_frame (hlive : s.live) :
    s.takeTurn.tick.dt.toNat = s.dt.toNat - 1 ∧ s.takeTurn.tick.st.toNat = s.st.toNat - 1 ∧
      SameExcept [.delay, .sound, .turns] s s.takeTurn.tick := by
  have hlive' : s.takeTurn.live := hlive
  obtain ⟨hdt, hst⟩ := State.toNat_tick_timers hlive'
  exact ⟨hdt, hst, ((sameExcept_takeTurn s).trans (sameExcept_tick _)).mono (by decide)⟩

/-- Settles O58: the timer unit's step is the tick, the engine's its own, and a scheduled turn is the one taken. -/
theorem eitherAgentTakesItsOwnStep : Obligations.EitherAgentTakesItsOwnStep := by
  refine fun s => ⟨fun hlive hturn => ⟨_, step_of_timerUnit hlive hturn, tickStep_frame hlive⟩, step_of_engine,
    fun a => ⟨s.schedule_turn a [], sameExcept_schedule s [a], fun hlive => ?_⟩⟩
  have hlive' : (s.schedule [a]).live := hlive
  cases a with
  | engine =>
    obtain ⟨t, ht, hturns, _⟩ := engineStep_next (s.schedule [.engine]).takeTurn
    exact ⟨t, (step_of_engine hlive' rfl).trans ht, hturns⟩
  | timerUnit => exact ⟨_, step_of_timerUnit hlive' rfl, State.tick_turns _⟩

theorem steps_succ_of_step {n : Nat} (h : step s = .next t) : steps (n + 1) s = steps n t := by
  simp only [steps, h]

theorem turn_of_turns_cons {a : Agent} {rest : List Agent} (h : s.turns = a :: rest) : s.turn = a := by
  simp only [State.turn, h]

/-- Settles O10, by induction on the number of ticks. -/
theorem gapIsSomeNumberOfTicks : Obligations.GapIsSomeNumberOfTicks := by
  intro n rest s hlive hturns
  induction n generalizing s with
  | zero => exact ⟨s, rfl, hturns, rfl, rfl, sameExcept_refl _ s⟩
  | succ n ih =>
    obtain ⟨hdt, hst, hframe⟩ := tickStep_frame hlive
    have hstep := step_of_timerUnit hlive (turn_of_turns_cons hturns)
    have hlive' : s.takeTurn.tick.live := by simpa [State.live] using hlive
    have hturns' : s.takeTurn.tick.turns = List.replicate n .timerUnit ++ rest := by
      simp [hturns, List.replicate_succ]
    obtain ⟨t, ht, hrest, hdt', hst', hframe'⟩ := ih s.takeTurn.tick hlive' hturns'
    refine ⟨t, (steps_succ_of_step hstep).trans ht, hrest, ?_, ?_, (hframe.trans hframe').mono (by decide)⟩
    · omega
    · omega

/-! The terminal state: a jump to its own address. -/

/-- The word `0x1000 | PC` is JP PC (R218). -/
theorem decode_selfJump {p : Word} (hp : p.toNat ≤ 0xFFE) : decode (0x1000 ||| p) = .ok (.jp (p.setWidth 12)) := by
  rw [decode_eq_ok_iff]
  apply BitVec.eq_of_toNat_eq
  have hor : (0x1000 ||| p : Word).toNat = 4096 + p.toNat :=
    (BitVec.toNat_or ..).trans (Nat.two_pow_add_eq_or_of_lt (i := 12) (by omega) 1).symm
  have hwidth : (p.setWidth 12).toNat = p.toNat := BitVec.toNat_setWidth .. |>.trans (Nat.mod_eq_of_lt (by omega))
  rw [hor, encode, toNat_wordNnn, hwidth]
  rfl

theorem literalAddr_setWidth {p : Word} (hp : p.toNat ≤ 0xFFE) : literalAddr (p.setWidth 12) = p := by
  apply BitVec.eq_of_toNat_eq
  rw [toNat_literalAddr, BitVec.toNat_setWidth]
  exact Nat.mod_eq_of_lt (by omega)

/-- The instruction step of a terminal state writes IR, and PC with the value it has (R218). -/
theorem instructionStep_of_terminal (h : s.terminal) : instructionStep s = .next (s.setIr (0x1000 ||| s.pc)) := by
  obtain ⟨_, hpc, hf⟩ := h
  rw [instructionStep_of_decode_ok hf (decode_selfJump hpc), exec, execJp, literalAddr_setWidth hpc]
  rfl

/-- Settles O54: the engine's step writes IR alone, the tick the timers alone, and a state is terminal by other fields. -/
theorem terminalStateIsFixed : Obligations.TerminalStateIsFixed := by
  intro s hterm
  have hterm' : s.takeTurn.terminal := hterm
  obtain ⟨hrun, hpc, hf⟩ := hterm
  have hlive := live_of_run hrun
  cases hturn : s.turn with
  | engine =>
    have hframe := (sameExcept_takeTurn s).trans (sameExcept_setIr s.takeTurn (0x1000 ||| s.pc))
    refine ⟨_, (step_of_run hturn hrun).trans (instructionStep_of_terminal hterm'), hterm',
      hframe.mono (by decide), Nat.le_refl _, Nat.le_refl _⟩
  | timerUnit =>
    obtain ⟨hdt, hst, hframe⟩ := tickStep_frame hlive
    refine ⟨_, step_of_timerUnit hlive hturn, ?_, hframe.mono (by decide), by omega, by omega⟩
    simpa [State.terminal] using hterm'

end Sys2Proof.Machine

/-!
The call stack (10_state.md section 6, 40_control_flow.md section 2): a CALL and the RET that meets it, and that no step depends on
the entries not in use.
-/

namespace Sys2Proof.Machine

variable {s t u : State} {i : Instr}

/-- Settles O20: an instruction pushes on top of the entries in use, and RET reads the entry CALL has pushed. -/
theorem callThenReturn : Obligations.CallThenReturn := by
  refine ⟨fun i u t k hused h hk => ?_, fun nnn s h => ?_⟩
  · obtain ⟨_, hentry⟩ | ⟨htop, _⟩ := exec_entry h k hk
    · exact hentry
    · exact absurd htop hused.ne
  · obtain ⟨_, _, hcall⟩ := callPushes nnn s
    obtain ⟨t, ht, hsp, _, hpushed, _⟩ := hcall h
    refine ⟨t, ht, fun u husp hentry => ?_⟩
    have htop : u.sp.val - 1 = s.sp.val := by omega
    obtain ⟨_, hpop⟩ := retPops.2 u
    obtain ⟨r, hr, hrsp, hrpc, _⟩ := hpop (by omega)
    simp only [htop] at hrsp hrpc
    exact ⟨r, hr, hrpc.trans (hentry.trans hpushed), Fin.ext hrsp⟩

/-- The state with other stack entries. -/
def State.withStk (s : State) (entries : Vector Word 16) : State := { s with stk := entries }

/-- A result with other stack entries in its next state. -/
def withStkNext (entries : Vector Word 16) : Result → Result
  | .next u => .next (u.withStk entries)
  | .fault f => .fault f
  | .refused r => .refused r

section Commute

variable (entries : Vector Word 16)

theorem State.writeBlock_withStk (a : Nat) (bytes : List Byte) :
    (s.withStk entries).writeBlock a bytes = (s.writeBlock a bytes).map (·.withStk entries) := by
  unfold State.writeBlock
  split <;> rfl

theorem storeAtIndex_withStk (bytes : List Byte) :
    storeAtIndex bytes (s.withStk entries) = withStkNext entries (storeAtIndex bytes s) := by
  have hbase : (s.withStk entries).base = s.base := rfl
  rw [storeAtIndex, storeAtIndex, hbase, State.writeBlock_withStk]
  cases s.writeBlock s.base bytes <;> rfl

theorem State.setRegList_withStk (s : State) (k : Nat) (bytes : List Byte) :
    (s.withStk entries).setRegList k bytes = (s.setRegList k bytes).withStk entries := by
  induction bytes generalizing s k with
  | nil => rfl
  | cons b bs ih => exact ih (s.setReg (BitVec.ofNat 4 k) b) (k + 1)

theorem execDrwVxVyN_withStk (x y n : Nibble) :
    execDrwVxVyN x y n (s.withStk entries) = withStkNext entries (execDrwVxVyN x y n s) := by
  have hread : (s.withStk entries).readBlock (s.withStk entries).base n.toNat = s.readBlock s.base n.toNat := rfl
  rw [execDrwVxVyN, execDrwVxVyN, hread]
  cases s.readBlock s.base n.toNat <;> rfl

theorem execLdVxMem_withStk (x : Nibble) :
    execLdVxMem x (s.withStk entries) = withStkNext entries (execLdVxMem x s) := by
  have hread : (s.withStk entries).readBlock (s.withStk entries).base (blockCount x) = s.readBlock s.base (blockCount x) := rfl
  rw [execLdVxMem, execLdVxMem, hread]
  cases s.readBlock s.base (blockCount x) with
  | none => rfl
  | some bytes => exact congrArg Host.Outcome.next (State.setRegList_withStk entries s 0 bytes)

theorem execLdVxK_withStk (x : Nibble) :
    execLdVxK x (s.withStk entries) = withStkNext entries (execLdVxK x s) := by
  have hkey : (s.withStk entries).keyNow = s.keyNow := rfl
  rw [execLdVxK, execLdVxK, hkey]
  cases s.keyNow <;> rfl

theorem pollStep_withStk : pollStep (s.withStk entries) = withStkNext entries (pollStep s) := by
  have hkey : (s.withStk entries).keyNow = s.keyNow := rfl
  rw [pollStep, pollStep, hkey]
  cases s.keyNow <;> rfl

/-- An instruction that does not write the stack does not read it either (R18). -/
theorem exec_withStk (hi : .stack ∉ writtenParts i) :
    exec i (s.withStk entries) = withStkNext entries (exec i s) := by
  cases i with
  | ret | call => simp [writtenParts] at hi
  | ldBVx x | ldMemVx x => exact storeAtIndex_withStk entries _
  | drwVxVyN x y n => exact execDrwVxVyN_withStk entries x y n
  | ldVxMem x => exact execLdVxMem_withStk entries x
  | ldVxK x => exact execLdVxK_withStk entries x
  | _ => rfl

end Commute

/-- Whatever next state the one result has, the other's differs from it at most in entries not in use. -/
def NextAlike (r r' : Result) : Prop := ∀ u, r = .next u → ∃ v, r' = .next v ∧ sameInUse u v

section Alike

variable {entries : Vector Word 16}

theorem sameInUse_withStk (h : ∀ k : Fin 16, k.val < s.sp.val → entries[k] = s.stk[k]) :
    sameInUse s (s.withStk entries) := ⟨rfl, h⟩

/-- An action that does not read the entries and keeps the stack ends alike. -/
theorem nextAlike_of_withStkNext {r r' : Result} (h : ∀ k : Fin 16, k.val < s.sp.val → entries[k] = s.stk[k])
    (hr : r' = withStkNext entries r) (hkeep : ∀ u, r = .next u → Same s u .stack) : NextAlike r r' := by
  rintro u rfl
  obtain ⟨hsp, hstk⟩ := hkeep u rfl
  refine ⟨_, hr, sameInUse_withStk fun k hk => ?_⟩
  rw [hsp] at hk
  rw [hstk]
  exact h k hk

variable (h : ∀ k : Fin 16, k.val < s.sp.val → entries[k] = s.stk[k])
include h

theorem raise_alike (c : Fault) : NextAlike (raise c s) (raise c (s.withStk entries)) :=
  nextAlike_of_withStkNext h rfl fun u hu => by
    cases hu
    exact ⟨rfl, rfl⟩

/-- RET reads the top entry in use (R80). -/
theorem ret_alike : NextAlike (exec .ret s) (exec .ret (s.withStk entries)) := by
  obtain ⟨hempty, hret⟩ | ⟨hused, hret⟩ := execRet_cases s
  all_goals obtain ⟨hempty', hret'⟩ | ⟨hused', hret'⟩ := execRet_cases (s.withStk entries)
  · rw [hret, hret']
    exact raise_alike h _
  · exact absurd hempty hused'.ne'
  · exact absurd hempty' hused.ne'
  · rw [hret, hret']
    rintro u ⟨⟩
    have htop := h ⟨s.sp.val - 1, by omega⟩ (Nat.sub_lt hused Nat.one_pos)
    refine ⟨_, rfl, ?_, fun k hk => h k (Nat.lt_of_lt_of_le hk (Nat.sub_le _ _))⟩
    simpa [State.withStk] using htop

/-- CALL writes the first entry not in use, the same word in both states (R82). -/
theorem call_alike (nnn : Addr) : NextAlike (exec (.call nnn) s) (exec (.call nnn) (s.withStk entries)) := by
  obtain ⟨hfull, hcall⟩ | ⟨hroom, hcall⟩ := execCall_cases nnn s
  all_goals obtain ⟨hfull', hcall'⟩ | ⟨hroom', hcall'⟩ := execCall_cases nnn (s.withStk entries)
  · rw [hcall, hcall']
    exact raise_alike h _
  · exact absurd hfull hroom'.ne
  · exact absurd hfull' hroom.ne
  · rw [hcall, hcall']
    rintro u ⟨⟩
    refine ⟨_, rfl, rfl, fun k hk => ?_⟩
    obtain hlt | htop := Nat.lt_succ_iff_lt_or_eq.1 hk
    · exact (Vector.getElem_set_ne hroom k.isLt hlt.ne').trans
        ((h k hlt).trans (Vector.getElem_set_ne hroom k.isLt hlt.ne').symm)
    · simp [State.withStk, htop]

theorem exec_alike (i : Instr) : NextAlike (exec i s) (exec i (s.withStk entries)) := by
  by_cases hi : .stack ∈ writtenParts i
  · obtain rfl | ⟨nnn, rfl⟩ := stack_mem_writtenParts_iff.1 hi
    · exact ret_alike h
    · exact call_alike h nnn
  · exact nextAlike_of_withStkNext h (exec_withStk entries hi) fun u hu => exec_keeps hu hi (by decide)

/-- The fetch and the decoder do not read the stack (R28). -/
theorem instructionStep_alike : NextAlike (instructionStep s) (instructionStep (s.withStk entries)) := by
  cases hf : s.fetch with
  | none =>
    rw [instructionStep_of_fetch_none hf, instructionStep_of_fetch_none (s := s.withStk entries) hf]
    exact raise_alike h _
  | some w =>
    cases hd : decode w with
    | ok i =>
      rw [instructionStep_of_decode_ok hf hd, instructionStep_of_decode_ok (s := s.withStk entries) hf hd]
      exact exec_alike (s := s.fetched w) h i
    | error e =>
      rw [instructionStep_of_decode_error hf hd, instructionStep_of_decode_error (s := s.withStk entries) hf hd]
      exact raise_alike (s := s.fetched w) h _

theorem pollStep_alike : NextAlike (pollStep s) (pollStep (s.withStk entries)) :=
  nextAlike_of_withStkNext h (pollStep_withStk entries) fun u hu => by
    cases hk : s.keyNow with
    | some k =>
      cases (pollStep_of_some hk).symm.trans hu
      exact ⟨rfl, rfl⟩
    | none =>
      cases (pollStep_of_none hk).symm.trans hu
      exact ⟨rfl, rfl⟩

theorem engineStep_alike : NextAlike (engineStep s) (engineStep (s.withStk entries)) := by
  have hrun' : (s.withStk entries).run = s.run := rfl
  unfold engineStep
  rw [hrun']
  cases s.run with
  | run => exact instructionStep_alike h
  | waitKey => exact pollStep_alike h
  | halt => exact nextAlike_of_withStkNext h rfl fun u hu => by cases hu; exact ⟨rfl, rfl⟩

theorem tick_alike : NextAlike (.next s.tick) (.next (s.withStk entries).tick) := by
  refine nextAlike_of_withStkNext h ?_ fun u hu => ?_
  · obtain ⟨hlive, htick⟩ | ⟨hhalt, htick⟩ := s.tick_cases
    all_goals obtain ⟨hlive', htick'⟩ | ⟨hhalt', htick'⟩ := (s.withStk entries).tick_cases
    · rw [htick, htick']
      rfl
    · exact absurd hhalt' hlive
    · exact absurd hhalt hlive'
    · rw [htick, htick']
      rfl
  · cases hu
    exact ⟨s.tick_sp, s.tick_stk⟩

theorem step_alike : NextAlike (step s) (step (s.withStk entries)) := by
  obtain ⟨hlive, hturn, hstep⟩ | ⟨hlive, hturn, hstep⟩ | ⟨hhalt, hstep⟩ := step_cases s
  · rw [hstep, step_of_engine (s := s.withStk entries) hlive hturn]
    exact engineStep_alike (s := s.takeTurn) h
  · rw [hstep, step_of_timerUnit (s := s.withStk entries) hlive hturn]
    exact tick_alike (s := s.takeTurn) h
  · rw [hstep, step_of_halt (s := s.withStk entries) hhalt]
    exact nextAlike_of_withStkNext h rfl fun u hu => by cases hu; exact ⟨rfl, rfl⟩

end Alike

/-- Settles O55: the one state is the other with other entries, and those not in use are not read. -/
theorem deadStackEntriesUnobservable : Obligations.DeadStackEntriesUnobservable := by
  rintro s t u ⟨hstate, hentries⟩ hstep
  rw [hstate]
  exact step_alike (entries := t.stk) hentries u hstep

end Sys2Proof.Machine

/-!
Blocks of memory stored and read again (20_memory.md sections 2, 3, 7; 42_index_and_memory.md section 2).
-/

namespace Sys2Proof.Machine

/-- Settles O34: the load reads at I..I+x the bytes the store has put there. -/
theorem blockRoundTrip : Obligations.BlockRoundTrip := by
  intro x s hin
  obtain ⟨_, _, hstore⟩ := blockStore x s
  obtain ⟨t, ht, hbytes, _⟩ := hstore hin
  refine ⟨t, ht, fun u hidx hmem => ?_⟩
  obtain ⟨_, _, hload⟩ := blockLoad x u
  obtain ⟨r, hr, hregs, _⟩ := hload (by rwa [hidx])
  refine ⟨r, hr, fun k hk => ?_⟩
  rw [hregs k hk, hidx, hmem _ (by omega) (by omega), hbytes k hk]

/-- Settles O35: the store keeps PC, and the fetch reads the block's first two bytes. -/
theorem storeSeenByNextFetch : Obligations.StoreSeenByNextFetch := by
  intro x s hx hidx hin
  obtain ⟨_, _, hstore⟩ := blockStore x s
  obtain ⟨t, ht, hbytes, _, hframe⟩ := hstore hin
  have hpc : t.pc = s.idx := Eq.trans (hframe .pc (by decide)) hidx.symm
  refine ⟨t, ht, ?_⟩
  rw [State.fetch_of_le (by rw [hpc]; omega), hpc]
  exact congrArg some (congrArg₂ (· ++ ·) (hbytes 0 (Nat.zero_le _)) (hbytes 1 hx))

/-- A block of one byte is in bounds exactly when its address is (R44, R45). -/
theorem inMemory_one_iff {a : Nat} : inMemory a 1 ↔ a ≤ 0xFFF := inMemory_succ_iff

/-- Settles O36, by the two answers of each primitive. -/
theorem memoryPrimitives : Obligations.MemoryPrimitives := by
  refine ⟨fun s a => ?_, fun s => rfl, fun s a b => ?_⟩
  · obtain ⟨hin, hread⟩ | ⟨hout, hread⟩ := s.readBlock_cases a 1
    · rw [hread, if_neg (inMemory_one_iff.1 hin).not_gt]
      rfl
    · rw [hread, if_pos (Nat.lt_of_not_le fun h => hout (inMemory_one_iff.2 h))]
  · obtain ⟨hin, hwrite⟩ | ⟨hout, hwrite⟩ := s.writeBlock_cases a [b]
    · have hle := inMemory_one_iff.1 hin
      refine ⟨fun h => absurd hle h.not_ge, fun _ => ⟨_, hwrite, ?_, fun c hc => ?_, sameExcept_setMem s _⟩⟩
      · exact (Memory.read_write s.mem a a b).trans (if_pos rfl)
      · exact (Memory.read_write s.mem a c b).trans (if_neg hc)
    · exact ⟨fun _ => hwrite, fun h => absurd (inMemory_one_iff.2 h) hout⟩

/-- The table's bytes of a 16-bit word are the word's own two bytes. -/
theorem tableBytes_toNat (w : Word) : tableBytes 16 w.toNat = wordBytes w := by
  rw [tableBytes, Nat.mod_eq_of_lt w.isLt, BitVec.ofNat_toNat, BitVec.setWidth_eq]

/-- The word's two bytes, stored at an address, are read back as the word (R46). -/
theorem bigEndian_read_wordBytes (m : Memory) (a : Nat) (w : Word) :
    bigEndian ((m.writeList a (wordBytes w)).read a) ((m.writeList a (wordBytes w)).read (a + 1)) = w := by
  simp [Memory.read_writeList, wordBytes]

/-- The probe's PC is one that can be fetched from (log 20). -/
theorem State.placeWord_pc_le (s : State) (bytes : List Byte) : (s.placeWord bytes).pc.toNat ≤ 0xFFE := by
  rw [State.placeWord, State.setMem_pc, State.setPc_pc]
  split_ifs with h
  · exact h
  · decide

theorem decodeBytes_wordBytes (w : Word) : decodeBytes (wordBytes w) = (decode w).map fun i => (i, []) := by
  rw [wordBytes, decodeBytes, bigEndian_bytes]
  cases decode w <;> rfl

/-- Settles O57: the probe's two bytes stand where the next fetch reads. -/
theorem placedWordIsFetched : Obligations.PlacedWordIsFetched := by
  intro s w
  refine ⟨rfl, rfl, ?_, ?_⟩
  · rw [State.withFetchWord, tableBytes_toNat, State.fetch_of_le (s.placeWord_pc_le _)]
    exact congrArg some (bigEndian_read_wordBytes _ _ w)
  · rw [decodeTableWord, tableBytes_toNat, decodeBytes_wordBytes]
    cases decode w <;> rfl

end Sys2Proof.Machine

/-!
The display's instructions and the laws of the blit (43_display.md).
-/

namespace Sys2Proof.Machine

/-- Settles O37: CLS writes the clear framebuffer and counts its pulse. -/
theorem clsClearsScreen : Obligations.ClsClearsScreen := by
  refine ⟨readExactlyFrom_encode .cls, fun s => ⟨_, rfl, fun i _ => ?_, rfl, ?_⟩⟩
  · exact Framebuffer.pixel_clear (i % 64) (i / 64)
  · exact (sameExcept_setFb s _).trans (sameExcept_pulseInvalidate _)

/-- Settles O38, by the two answers of DRW. -/
theorem drwBlitsSprite : Obligations.DrwBlitsSprite := by
  refine fun x y n s => ⟨readExactlyFrom_encode (.drwVxVyN x y n), ?_⟩
  obtain ⟨hin, _, rfl, hdrw⟩ | ⟨hout, hdrw⟩ := execDrw_cases x y n s
  · refine ⟨fun h => absurd h (inMemory_iff_not_drwBounds.1 hin), fun _ =>
      ⟨_, hdrw, ⟨_, by simp, fun r hr => by simp, rfl, ?_⟩, rfl, fun r hr => ?_, sameExcept_drw s _ _⟩⟩
    · exact State.setReg_reg_self (s.setFb _) vf _
    · exact (setReg_frame (s.setFb _) vf _).1 r hr
  · rw [hdrw]
    exact ⟨fun _ => faultTaken_raise .memBounds s, fun h => absurd h hout⟩

section Blit

variable (ox oy : Byte) (rows : List Byte) (f : Framebuffer)

/-- The pixel lies in the span the sprite's row r, pixel j is drawn at (R142). -/
def DrawnAt (ox oy : Byte) (rows : List Byte) (x y : Nat) : Prop :=
  ∃ r j, r < rows.length ∧ j < 8 ∧ x = (ox.toNat + j) % 64 ∧ y = oy.toNat + r

theorem pixel_blit_of_not_drawnAt {x y : Nat} (h : ¬ DrawnAt ox oy rows x y) :
    (blit ox oy rows f).1.pixel x y = f.pixel x y :=
  pixel_blitRows_of_outside ox oy.toNat rows (f, false) fun r j hr hj hxy => h ⟨r, j, hr, hj, hxy⟩

theorem pixel_blit_of_drawn {r j : Nat} (hr : r < rows.length) (hj : j < 8) (hon : oy.toNat + r ≤ 31) :
    (blit ox oy rows f).1.pixel ((ox.toNat + j) % 64) (oy.toNat + r) =
      (f.pixel ((ox.toNat + j) % 64) (oy.toNat + r) != spriteBit rows[r] j) :=
  pixel_blitRows_of_inside ox oy.toNat rows (f, false) r hr hj hon

/-- A pixel is XORed with the same sprite bit twice, or not at all (R146). -/
theorem blit_blit : (blit ox oy rows (blit ox oy rows f).1).1 = f := by
  refine Framebuffer.ext_pixel fun x y _ hy => ?_
  by_cases h : DrawnAt ox oy rows x y
  · obtain ⟨r, j, hr, hj, rfl, rfl⟩ := h
    have hon : oy.toNat + r ≤ 31 := by omega
    rw [pixel_blit_of_drawn ox oy rows _ hr hj hon, pixel_blit_of_drawn ox oy rows _ hr hj hon]
    simp
  · rw [pixel_blit_of_not_drawnAt ox oy rows _ h, pixel_blit_of_not_drawnAt ox oy rows _ h]

theorem blit_collides_iff : (blit ox oy rows f).2 = true ↔
    ∃ (r : Nat) (hr : r < rows.length) (j : Nat), j < 8 ∧ oy.toNat + r ≤ 31 ∧
      rows[r].getLsbD (7 - j) = true ∧ f.pixel ((ox.toNat + j) % 64) (oy.toNat + r) = true := by
  obtain ⟨_, _, hcollides⟩ := blitPixelByPixel ox oy rows f
  exact hcollides

/-- A drawn sprite bit meets an on pixel at the second draw exactly when it met an off pixel at the first (R146). -/
theorem blit_collides_again_iff : (blit ox oy rows (blit ox oy rows f).1).2 = true ↔
    ∃ (r : Nat) (hr : r < rows.length) (j : Nat), j < 8 ∧ oy.toNat + r ≤ 31 ∧
      rows[r].getLsbD (7 - j) = true ∧ f.pixel ((ox.toNat + j) % 64) (oy.toNat + r) = false := by
  rw [blit_collides_iff]
  refine exists_congr fun r => exists_congr fun hr => exists_congr fun j => ?_
  refine and_congr_right fun hj => and_congr_right fun hon => and_congr_right fun hbit => ?_
  rw [pixel_blit_of_drawn ox oy rows f hr hj hon, spriteBit, hbit]
  simp

theorem blit_clear_not_collides : (blit ox oy rows Framebuffer.clear).2 = false := by
  rw [← Bool.not_eq_true, blit_collides_iff]
  simp

/-- A zero sprite has no bit to XOR with or to collide (R146). -/
theorem blit_zeros (n : Nat) : blit ox oy (List.replicate n 0) f = (f, false) := by
  refine Prod.ext (Framebuffer.ext_pixel fun x y _ hy => ?_) ?_
  · by_cases h : DrawnAt ox oy (List.replicate n 0) x y
    · obtain ⟨r, j, hr, hj, rfl, rfl⟩ := h
      rw [pixel_blit_of_drawn ox oy _ f hr hj (by omega)]
      simp [spriteBit]
    · exact pixel_blit_of_not_drawnAt ox oy _ f h
  · rw [← Bool.not_eq_true, blit_collides_iff]
    simp

end Blit

/-- Settles O40: each law is read off the blit pixel by pixel. -/
theorem blitLaws : Obligations.BlitLaws :=
  ⟨fun ox oy rows f => ⟨blit_blit ox oy rows f, blit_collides_again_iff ox oy rows f⟩, blit_clear_not_collides,
    fun ox oy n f => blit_zeros ox oy f n⟩

end Sys2Proof.Machine

/-!
The inputs, the outputs and the reset (10_state.md section 12; 41_load_and_alu.md section 2; 44_timers_and_keys.md sections 1 and
3; 70_reset_and_hazards.md section 1).
-/

namespace Sys2Proof.Machine

/-- Settles O29: V[x] takes the draw under the mask, and its only other write is the count of draws. -/
theorem rndMasksFreeByte : Obligations.RndMasksFreeByte := by
  refine fun x kk s => ⟨readExactlyFrom_encode (.rndVxKk x kk), _, rfl, State.setReg_reg_self _ x _, ?_, rfl,
    (setReg_frame s.countDraw x _).1,
    ((sameExcept_countDraw s).trans (sameExcept_setReg _ x _)).mono (by decide)⟩
  rw [State.setReg_reg_self, BitVec.and_assoc]
  simp

/-- Settles O41: pixel y*64+x is taken apart into x and y, and each cause has a code of its own. -/
theorem outputsPresentState : Obligations.OutputsPresentState := by
  intro s
  refine ⟨fun x y hx _ => ?_, bne_iff_ne, beq_iff_eq, rfl, ?_⟩
  · have hcol : (y * 64 + x) % 64 = x := by omega
    have hrow : (y * 64 + x) / 64 = y := by omega
    rw [State.fbOut, Framebuffer.pixelAt, hcol, hrow]
  · rw [State.faultCause]
    cases s.cause with
    | none => simp [causeCode]
    | some c => cases c <;> simp [causeCode]

/-- Settles O43: the two skip on opposite conditions. -/
theorem exactlyOneKeySkipSkips : Obligations.ExactlyOneKeySkipSkips := by
  refine fun x s => ⟨_, _, rfl, rfl, ?_⟩
  simp only [State.skipIf_pc, State.countKeyRead_pc]
  cases keyMatches s.keyNow (s.reg x)
  · exact ⟨eq_comm, iff_of_true rfl rfl, .inl rfl⟩
  · exact ⟨iff_of_true rfl rfl, eq_comm, .inr rfl⟩

/-- Settles O45, by the two answers of the key slot. -/
theorem keyWait : Obligations.KeyWait := by
  refine fun x s => ⟨readExactlyFrom_encode (.ldVxK x), ?_⟩
  obtain ⟨k, hk, hkey⟩ | ⟨hk, hkey⟩ := execLdVxK_cases x s
  · rw [hk]
    have hframe := (sameExcept_countKeyRead s).trans (sameExcept_setReg _ x (keyByte k))
    refine ⟨_, hkey, ?_, (setReg_frame s.countKeyRead x _).1, hframe.mono (by decide)⟩
    rw [State.setReg_reg_self, toNat_keyByte]
  · rw [hk]
    have hframe := (sameExcept_countKeyRead s).trans (sameExcept_setRun _ .waitKey)
    exact ⟨_, hkey, rfl, hframe.mono (by decide)⟩

/-- Settles O2: the reset is the launch, with the model's own counters going on. -/
theorem resetFromAnyState : Obligations.ResetFromAnyState := by
  refine ⟨fun glyphs image hlong => if_neg hlong.not_ge, fun glyphs image s hfits => ?_⟩
  have hlaunch := launchWith_of_fits glyphs hfits
  refine ⟨_, _, by rw [assertReset, hlaunch], hlaunch, fun p hp => ?_⟩
  cases p with
  | draws | keyReads | turns | pulses => simp at hp
  | regs | memory => exact fun _ => rfl
  | stack => exact ⟨rfl, rfl⟩
  | idx | pc | delay | sound | screen | runState | ir | cause => rfl

end Sys2Proof.Machine
